-- ==== Sys2Proof/Word.lean ====
section
/-! DEFINITION. The two bit-vector types of the block: 32-bit words and 8-bit bytes. -/

namespace Sys2Proof

/-- A register value or image address: every register is 32 bits wide (R23) and image addresses are 32-bit
unsigned numbers (R60). -/
abbrev Word := BitVec 32

/-- An image byte, a FOLD operand or a table index (R60, R82, R40). -/
abbrev Byte := BitVec 8

end Sys2Proof
end

