-- ==== Sys2Proof/Config.lean ====
section
/-! DEFINITION. The implementation parameters of R7 and the free values: what the spec fixes once for the block, or leaves
open on purpose. The free values are opaque constants, so that no proof can see what they are. -/

namespace Sys2Proof

/-- The three CRC widths the block computes (R7, R11). -/
inductive CrcWidth where
  /-- CRC8, `W` = 8 (`CTRL.WIDTH` = 0). -/
  | w8
  /-- CRC16, `W` = 16 (`CTRL.WIDTH` = 1). -/
  | w16
  /-- CRC32, `W` = 32 (`CTRL.WIDTH` = 2). -/
  | w32
  deriving DecidableEq, Repr

/-- `BASE`, the platform address of the register block: OPEN in the spec (R7, R23, R235, U12), so a parameter without
a value. -/
opaque Config.base : Word

/-- What table entry `i` holds after the `d`-th reset: unspecified, drawn freely for each entry (R40, R251, U1). -/
opaque Config.tblDraw (d i : Nat) : Word

end Sys2Proof
end

