-- ==== Sys2Proof/Syntax.lean ====
section
/-! DEFINITION. The instructions: one constructor for each row of the opcode table (R81, R88). The eight commands come
first, then the thirty well-formed bus accesses in the order of their register offsets (R23). -/

namespace Sys2Proof

/-- What the host can make the block do. A command is what a 32-bit word written to `CMD` means (R80, R81); a bus access is
a well-formed transaction on one of the 15 registers (R88). An operand has exactly the width its encoding gives it, so
every term is an instruction. -/
inductive Instr where
  /-- Does nothing (R200). -/
  | nop
  /-- Builds the lookup table (R140). -/
  | build
  /-- Loads the accumulator with the initial value (R160). -/
  | start
  /-- Folds the byte `b`, the ARG field of the command word (R82, R162). -/
  | fold (b : Byte)
  /-- Finalizes the accumulator into `RESULT` (R180). -/
  | final
  /-- Folds every image byte of the effective range (R163). -/
  | foldRange
  /-- Writes `RESULT` into the image (R181). -/
  | store
  /-- The whole CRC request as one command (R201). -/
  | compute
  /-- Read of `CTRL` (R100). -/
  | rdCtrl
  /-- Write of `CTRL` (R101). -/
  | wrCtrl (data : Word)
  /-- Read of `POLY` (R100). -/
  | rdPoly
  /-- Write of `POLY` (R102). -/
  | wrPoly (data : Word)
  /-- Read of `INIT` (R100). -/
  | rdInit
  /-- Write of `INIT` (R103). -/
  | wrInit (data : Word)
  /-- Read of `XOROUT` (R100). -/
  | rdXorout
  /-- Write of `XOROUT` (R104). -/
  | wrXorout (data : Word)
  /-- Read of `ACC` (R100). -/
  | rdAcc
  /-- Write of `ACC`, ignored (R110). -/
  | wrAcc (data : Word)
  /-- Read of `RESULT` (R100). -/
  | rdResult
  /-- Write of `RESULT`, ignored (R110). -/
  | wrResult (data : Word)
  /-- Read of `CMD`, which returns 0 (R113). -/
  | rdCmd
  /-- Write of `CMD`: decodes and executes `data` as a command word (R112). -/
  | wrCmd (data : Word)
  /-- Read of `STATUS` (R100). -/
  | rdStatus
  /-- Write of `STATUS`: clears sticky bits (R111). -/
  | wrStatus (data : Word)
  /-- Read of `RSTART` (R100). -/
  | rdRstart
  /-- Write of `RSTART` (R105). -/
  | wrRstart (data : Word)
  /-- Read of `REND` (R100). -/
  | rdRend
  /-- Write of `REND` (R106). -/
  | wrRend (data : Word)
  /-- Read of `TARGET` (R100). -/
  | rdTarget
  /-- Write of `TARGET` (R107). -/
  | wrTarget (data : Word)
  /-- Read of `IMG_LOW` (R100). -/
  | rdImgLow
  /-- Write of `IMG_LOW` (R108). -/
  | wrImgLow (data : Word)
  /-- Read of `IMG_HIGH` (R100). -/
  | rdImgHigh
  /-- Write of `IMG_HIGH` (R109). -/
  | wrImgHigh (data : Word)
  /-- Read of `TBL_IDX` (R100). -/
  | rdTblIdx
  /-- Write of `TBL_IDX` (R114). -/
  | wrTblIdx (data : Word)
  /-- Read of `TBL_DATA` (R115). -/
  | rdTblData
  /-- Write of `TBL_DATA`, ignored (R110). -/
  | wrTblData (data : Word)
  deriving DecidableEq, Repr

end Sys2Proof
end

