-- ==== Sys2Proof/WellFormed.lean ====
section
/-! DEFINITION. What the host sends the block, and when it is well-formed: the registers by name, the bus transaction of
R88 with its well-formedness, and the command word of R80 with its validity. Every operand of `Instr` has the width of its
field, so an instruction needs no check of its own: what can be ill-formed is a transaction or a word. -/

namespace Sys2Proof

/-- The 15 registers of the register map (R23), in the order of their offsets. -/
inductive Reg where
  | ctrl | poly | init | xorout | acc | result | cmd | status
  | rstart | rend | target | imgLow | imgHigh | tblIdx | tblData
  deriving DecidableEq, Repr

/-- The direction of a bus transaction (R88). -/
inductive Dir where
  | read | write
  deriving DecidableEq, Repr

/-- A bus transaction (R88). `offset` is in bytes from `BASE` and `size` in bytes, both natural numbers as R8 has them;
`data` is what a Write carries. A Read returns its data (`State.readData`), and its `data` here means nothing. -/
structure Transaction where
  dir : Dir
  offset : Nat
  size : Nat
  data : Word
  deriving DecidableEq, Repr

/-- What one host access to the block is, before it is decoded. `cmd word` is the `cmd` line of R89, a write of `word` to
`CMD` seen as the command it carries (the rows of format CMD in the opcode table); `bus t` is a bus transaction (the rows
of format BUS). -/
inductive Request where
  | cmd (word : Word)
  | bus (t : Transaction)
  deriving DecidableEq, Repr

/-- A transaction is well-formed when it moves one aligned word at a mapped offset (R88). -/
abbrev Transaction.wellFormed (t : Transaction) : Prop :=
  t.size = 4 ∧ t.offset % 4 = 0 ∧ t.offset ≤ 0x38

/-- The OP field of a command word (R80). -/
abbrev opField (w : Word) : Byte := w.extractLsb' 0 8

/-- The ARG field of a command word (R80, R82). -/
abbrev argField (w : Word) : Byte := w.extractLsb' 8 8

/-- The RSVD field of a command word (R80, R83). -/
abbrev rsvdField (w : Word) : BitVec 16 := w.extractLsb' 16 16

/-- A command word is valid when RSVD is 0, OP is at most 0x07, and ARG is 0 on every opcode but FOLD (R83 to R85). -/
abbrev commandWordValid (w : Word) : Prop :=
  rsvdField w = 0 ∧ opField w ≤ 0x07 ∧ (opField w = 0x03 ∨ argField w = 0)

/-- A request is well-formed when its transaction or its command word is. -/
abbrev Request.wellFormed : Request → Prop
  | .cmd w => commandWordValid w
  | .bus t => t.wellFormed

end Sys2Proof
end

