-- ==== Sys2Proof/Decode.lean ====
section
/-! DEFINITION. Decoding and encoding (R80 to R88): the command word, the bus transaction, the opcode table's own
numbering of both, and where a transaction lies on the platform's bus. -/

namespace Sys2Proof

/-- Why an encoding is rejected. The first three are the invalid command words of R85; the last three are the ill-formed
transactions of R116. -/
inductive DecodeError where
  /-- RSVD, bits [31:16], is not 0. -/
  | nonzeroRsvd
  /-- OP is above 0x07. -/
  | reservedOpcode
  /-- ARG is not 0 on an opcode other than FOLD. -/
  | nonzeroArg
  /-- The transaction's size is not 4. -/
  | badSize
  /-- The offset is not a multiple of 4. -/
  | misaligned
  /-- The offset is above 0x38. -/
  | unmapped
  deriving DecidableEq, Repr

/-- A decoded command word (R84). -/
inductive Command where
  | nop | build | start | fold (b : Byte) | final | foldRange | store | compute
  deriving DecidableEq, Repr

/-- The instruction a command is (R81). -/
def Command.toInstr : Command → Instr
  | .nop => .nop
  | .build => .build
  | .start => .start
  | .fold b => .fold b
  | .final => .final
  | .foldRange => .foldRange
  | .store => .store
  | .compute => .compute

/-- `decode(word)` of R84: total, one command or `Invalid`, with the reason an invalid word is rejected for. -/
def decodeCommand (w : Word) : Except DecodeError Command :=
  if rsvdField w ≠ 0 then .error .nonzeroRsvd
  else if 0x07 < opField w then .error .reservedOpcode
  else if opField w ≠ 0x03 ∧ argField w ≠ 0 then .error .nonzeroArg
  else
    match (opField w).toNat with
    | 0x00 => .ok .nop
    | 0x01 => .ok .build
    | 0x02 => .ok .start
    | 0x03 => .ok (.fold (argField w))
    | 0x04 => .ok .final
    | 0x05 => .ok .foldRange
    | 0x06 => .ok .store
    | 0x07 => .ok .compute
    | _ => .error .reservedOpcode

/-- The offset of each register from `BASE` (R23). -/
def Reg.offset : Reg → Nat
  | .ctrl => 0x00
  | .poly => 0x04
  | .init => 0x08
  | .xorout => 0x0C
  | .acc => 0x10
  | .result => 0x14
  | .cmd => 0x18
  | .status => 0x1C
  | .rstart => 0x20
  | .rend => 0x24
  | .target => 0x28
  | .imgLow => 0x2C
  | .imgHigh => 0x30
  | .tblIdx => 0x34
  | .tblData => 0x38

/-- The register at an offset; offsets from 0x3C up and offsets that are no multiple of 4 are unmapped (R23). -/
def Reg.atOffset : Nat → Option Reg
  | 0x00 => some .ctrl
  | 0x04 => some .poly
  | 0x08 => some .init
  | 0x0C => some .xorout
  | 0x10 => some .acc
  | 0x14 => some .result
  | 0x18 => some .cmd
  | 0x1C => some .status
  | 0x20 => some .rstart
  | 0x24 => some .rend
  | 0x28 => some .target
  | 0x2C => some .imgLow
  | 0x30 => some .imgHigh
  | 0x34 => some .tblIdx
  | 0x38 => some .tblData
  | _ => none

/-- The Read of a register (R88, rows `RD_*`). -/
def readOf : Reg → Instr
  | .ctrl => .rdCtrl
  | .poly => .rdPoly
  | .init => .rdInit
  | .xorout => .rdXorout
  | .acc => .rdAcc
  | .result => .rdResult
  | .cmd => .rdCmd
  | .status => .rdStatus
  | .rstart => .rdRstart
  | .rend => .rdRend
  | .target => .rdTarget
  | .imgLow => .rdImgLow
  | .imgHigh => .rdImgHigh
  | .tblIdx => .rdTblIdx
  | .tblData => .rdTblData

/-- The Write of a register (R88, rows `WR_*`). -/
def writeOf (data : Word) : Reg → Instr
  | .ctrl => .wrCtrl data
  | .poly => .wrPoly data
  | .init => .wrInit data
  | .xorout => .wrXorout data
  | .acc => .wrAcc data
  | .result => .wrResult data
  | .cmd => .wrCmd data
  | .status => .wrStatus data
  | .rstart => .wrRstart data
  | .rend => .wrRend data
  | .target => .wrTarget data
  | .imgLow => .wrImgLow data
  | .imgHigh => .wrImgHigh data
  | .tblIdx => .wrTblIdx data
  | .tblData => .wrTblData data

/-- The bus access a transaction is, or why it is ill-formed (R88, R116). -/
def decodeBus (t : Transaction) : Except DecodeError Instr :=
  if t.size ≠ 4 then .error .badSize
  else if t.offset % 4 ≠ 0 then .error .misaligned
  else
    match Reg.atOffset t.offset with
    | none => .error .unmapped
    | some r =>
      match t.dir with
      | .read => .ok (readOf r)
      | .write => .ok (writeOf t.data r)

/-- The instruction a request stands for. -/
def decode : Request → Except DecodeError Instr
  | .cmd w => (decodeCommand w).map Command.toInstr
  | .bus t => decodeBus t

/-- The Read transaction of a register (`rd REG` of R89). -/
def busRead (r : Reg) : Request := .bus ⟨.read, r.offset, 4, 0⟩

/-- The Write transaction of a register (`wr REG, value` of R89). -/
def busWrite (r : Reg) (data : Word) : Request := .bus ⟨.write, r.offset, 4, data⟩

/-- The command word of an opcode and its ARG field; RSVD is 0 (R80). -/
def commandWord (op arg : Byte) : Word := (arg.setWidth 32 <<< 8) ||| op.setWidth 32

/-- The request that an instruction is encoded as: the command words of R81, the bus transactions of R23 and R88. -/
def encode : Instr → Request
  | .nop => .cmd (commandWord 0x00 0)
  | .build => .cmd (commandWord 0x01 0)
  | .start => .cmd (commandWord 0x02 0)
  | .fold b => .cmd (commandWord 0x03 b)
  | .final => .cmd (commandWord 0x04 0)
  | .foldRange => .cmd (commandWord 0x05 0)
  | .store => .cmd (commandWord 0x06 0)
  | .compute => .cmd (commandWord 0x07 0)
  | .rdCtrl => busRead .ctrl
  | .wrCtrl d => busWrite .ctrl d
  | .rdPoly => busRead .poly
  | .wrPoly d => busWrite .poly d
  | .rdInit => busRead .init
  | .wrInit d => busWrite .init d
  | .rdXorout => busRead .xorout
  | .wrXorout d => busWrite .xorout d
  | .rdAcc => busRead .acc
  | .wrAcc d => busWrite .acc d
  | .rdResult => busRead .result
  | .wrResult d => busWrite .result d
  | .rdCmd => busRead .cmd
  | .wrCmd d => busWrite .cmd d
  | .rdStatus => busRead .status
  | .wrStatus d => busWrite .status d
  | .rdRstart => busRead .rstart
  | .wrRstart d => busWrite .rstart d
  | .rdRend => busRead .rend
  | .wrRend d => busWrite .rend d
  | .rdTarget => busRead .target
  | .wrTarget d => busWrite .target d
  | .rdImgLow => busRead .imgLow
  | .wrImgLow d => busWrite .imgLow d
  | .rdImgHigh => busRead .imgHigh
  | .wrImgHigh d => busWrite .imgHigh d
  | .rdTblIdx => busRead .tblIdx
  | .wrTblIdx d => busWrite .tblIdx d
  | .rdTblData => busRead .tblData
  | .wrTblData d => busWrite .tblData d

/-- The transaction of a BUS row's key `(d << 8) OR offset` with `d` = 0 for Read and 1 for Write, `size` = 4 implied (R88);
the row's mask 0x1FF drops every bit above bit 8. The table gives the data no bits, so it is 0. -/
def requestOfKey (key : Nat) : Request :=
  .bus ⟨if key.testBit 8 then .write else .read, key % 0x100, 4, 0⟩

/-- The request a word of the opcode table stands for. A word of 32 bits is a command word; a shorter one is a BUS row's key
(DESIGN CHOICE, log entry 4: a 32-bit word below 0x200 that is no valid command word is read as a key too). -/
def tableRequest (nbits w : Nat) : Request :=
  if nbits < 32 then requestOfKey w
  else
    match decodeCommand (BitVec.ofNat 32 w) with
    | .ok _ => .cmd (BitVec.ofNat 32 w)
    | .error _ => if w < 0x200 then requestOfKey w else .cmd (BitVec.ofNat 32 w)

/-- The instruction the decoder reads from a word of the opcode table. -/
def decodeTableWord (nbits w : Nat) : Option Instr :=
  match decode (tableRequest nbits w) with
  | .ok i => some i
  | .error _ => none

/-- Where a transaction lies on the platform's bus: `BASE + offset` (R23, R63). -/
def Transaction.platformAddress (t : Transaction) : Nat := Config.base.toNat + t.offset

/-- The transaction that a platform access at `addr` is for this block, or none where it lies below `BASE` (R63, R235). -/
def Transaction.ofPlatform (dir : Dir) (addr size : Nat) (data : Word) : Option Transaction :=
  if addr < Config.base.toNat then none else some ⟨dir, addr - Config.base.toNat, size, data⟩

end Sys2Proof
end

