-- ==== Sys2Proof/Machine/Crc.lean ====
section
/-! DEFINITION. The CRC datapath on 32-bit words: width mask, reflection, the table entry and the fold, as R10, R141 and R161
write them. `W`-bit values stand zero-extended in 32-bit words. -/

namespace Sys2Proof.Machine

/-- `W` (R7, R11). -/
def widthBits : CrcWidth → Nat
  | .w8 => 8
  | .w16 => 16
  | .w32 => 32

/-- `nbytes = W / 8`, the bytes of a result (R11). -/
def widthBytes (w : CrcWidth) : Nat := widthBits w / 8

/-- `mask_W = 2^W - 1` (R10). -/
def widthMask (w : CrcWidth) : Word := BitVec.ofNat 32 (2 ^ widthBits w - 1)

/-- `reflect_W(v)`: the low `W` bits reversed, the bits above 0 (R10). -/
def reflect (w : CrcWidth) (v : Word) : Word := ((v.setWidth (widthBits w)).reverse).setWidth 32

/-- One of the eight steps of the normal construction, MSB first (R141; UNVERIFIED, log entry 12). -/
def normalStep (w : CrcWidth) (p c : Word) : Word :=
  if c.getLsbD (widthBits w - 1) then ((c <<< 1) &&& widthMask w) ^^^ p else (c <<< 1) &&& widthMask w

/-- One of the eight steps of the reflected construction, LSB first (R141; UNVERIFIED, log entry 12). -/
def reflectedStep (pr c : Word) : Word :=
  if c.getLsbD 0 then (c >>> 1) ^^^ pr else c >>> 1

/-- `repeat n times`. -/
def times : Nat → (Word → Word) → Word → Word
  | 0, _, c => c
  | n + 1, f, c => times n f (f c)

/-- `tblentry(W, ref, poly, i)` (R141). -/
def tblEntry (w : CrcWidth) (ref : Bool) (poly : Word) (i : Byte) : Word :=
  let p := poly &&& widthMask w
  if ref then times 8 (reflectedStep (reflect w p)) (i.setWidth 32)
  else times 8 (normalStep w p) (i.setWidth 32 <<< (widthBits w - 8))

/-- The values of `f` at `i`, `i + 1`, ..., `i + n - 1`. -/
def listFrom (f : Nat → Word) : Nat → Nat → List Word
  | 0, _ => []
  | n + 1, i => f i :: listFrom f n (i + 1)

theorem listFrom_length (f : Nat → Word) : ∀ n i, (listFrom f n i).length = n
  | 0, _ => rfl
  | n + 1, i => by simp [listFrom, listFrom_length f n]

/-- The 256-entry table whose entry at each byte is `f` of it (R40). -/
def tableOf (f : Byte → Word) : Vector Word 256 :=
  ⟨⟨listFrom (fun i => f (BitVec.ofNat 8 i)) 256 0⟩, listFrom_length _ _ _⟩

/-- `TBL[i]`: the table is indexed by byte value (R40). -/
def tableAt (tbl : Vector Word 256) (i : Byte) : Word := tbl[i.toNat]

/-- `fold(W, ref, acc, b)` (R161; UNVERIFIED, log entry 12). -/
def crcFold (w : CrcWidth) (ref : Bool) (tbl : Vector Word 256) (acc : Word) (b : Byte) : Word :=
  if ref then
    (acc >>> 8) ^^^ tableAt tbl ((acc ^^^ b.setWidth 32).setWidth 8)
  else
    ((acc <<< 8) &&& widthMask w) ^^^ tableAt tbl (((acc >>> (widthBits w - 8)) ^^^ b.setWidth 32).setWidth 8)

/-- `storebyte(r, n, endian, k)`: byte `k` of the `n`-byte result field, least significant first when `big` is false
(R182, R65; UNVERIFIED, log entry 12). -/
def storeByte (r : Word) (n : Nat) (big : Bool) (k : Nat) : Byte :=
  if big then r.extractLsb' (8 * (n - 1 - k)) 8 else r.extractLsb' (8 * k) 8

end Sys2Proof.Machine
end

