-- ==== Sys2Proof/Machine/State.lean ====
section
/-! DEFINITION. The machine's state (R45), its status bits (R36), what the host can do next, the reasons a step stops, and
the state after reset (R250). -/

namespace Sys2Proof.Machine

/-- The fields of `STATUS` (R36). -/
inductive StatusBit where
  | busy | tableValid | accValid | resultValid | clipped | errCmd | errCfg | errSeq | errAddr
  deriving DecidableEq, Repr

/-- What the host (or the platform) does in one atomic step (R70, R236). -/
inductive HostAction where
  /-- An access to the block (R88, R89). -/
  | request (r : Request)
  /-- The reset, asserted between transactions (R250, R253). -/
  | reset
  /-- The host writes a byte of the image, which it owns (R60, R61). -/
  | imageWrite (a : Word) (v : Byte)
  /-- The host reads a byte of the image (R61, R71). -/
  | imageRead (a : Word)
  deriving DecidableEq, Repr

/-- The image: the bytes of the host's buffer by address, addresses strictly rising. An address that is not listed is no
byte of the buffer and has no value (R255, U4; log entry 7). -/
abbrev Memory := List Host.Cell

/-- The canonical form of the image: strictly rising addresses, all of 32 bits (R60). -/
abbrev Memory.wf (m : Memory) : Prop :=
  m.Pairwise (fun p q => p.1 < q.1) ∧ ∀ c ∈ m, c.1 < 2 ^ 32

/-- The machine's state: the block's state tuple of R45, the image of the environment (R60), and what the model adds to
hold the host's side of the bus. -/
structure State where
  /-- `CTRL` (R24). -/
  ctrl : Word
  /-- `POLY` (R30). -/
  poly : Word
  /-- `INIT` (R31). -/
  init : Word
  /-- `XOROUT` (R32). -/
  xorout : Word
  /-- `ACC` (R33). -/
  acc : Word
  /-- `RESULT` (R34). -/
  result : Word
  /-- `STATUS` (R36). -/
  status : Word
  /-- `RSTART` (R42). -/
  rstart : Word
  /-- `REND` (R42). -/
  rend : Word
  /-- `TARGET` (R43). -/
  target : Word
  /-- `IMG_LOW` (R44). -/
  imgLow : Word
  /-- `IMG_HIGH` (R44). -/
  imgHigh : Word
  /-- `TBL_IDX`, 8 bits (R41, R45). -/
  tblIdx : Byte
  /-- `TBL[0..255]` (R40). -/
  tbl : Vector Word 256
  /-- The image (R60). -/
  image : Memory
  /-- The model's own: what the host will do, the next action first (log entry 1). -/
  pending : List HostAction
  /-- The model's own: the data the last bus Read returned, none before the first (R88; log entry 5). -/
  readData : Option Word
  /-- The model's own: the byte the host's last image read gave, none before the first (log entry 5). -/
  imageData : Option Byte
  /-- The model's own: how many resets have drawn a table (R251; log entry 6). -/
  draws : Nat
  deriving DecidableEq, Repr

/-- Why the machine stops. Each is safe: a true claim may become unprovable, no false one provable. -/
inductive Fault where
  /-- An ill-formed bus transaction (R116, U3), raised by `step`. Safe: the faulted run is never final. -/
  | busError
  /-- A host access other than a `STATUS` read while BUSY = 1 (R263, U2), raised by `step`. Safe, and never reached: BUSY
  is always 0. -/
  | busyAccess
  /-- An access to an image address outside the host's buffer, raised by FOLDRANGE, STORE, COMPUTE and the host's image
  read. Stuck (R255, U4). Safe. -/
  | outsideBuffer
  deriving DecidableEq, Repr

/-- Why an instruction has no meaning. -/
inductive Refusal where
  /-- The instruction with this mnemonic is not modelled, raised by an arm of `exec`. Safe. No arm raises it: every
  instruction has its meaning. -/
  | notModelled (mnemonic : String)
  deriving DecidableEq, Repr

/-- The outcome of one step of this machine. -/
abbrev Outcome := Host.Outcome State Fault Refusal

/-- The table after the `d`-th reset: every entry a free value (R251). -/
def drawnTable (d : Nat) : Vector Word 256 := tableOf fun i => Config.tblDraw d i.toNat

/-- The block right after reset (R250, R251), with an empty image, since the image is the host's (R252), and a host that
has nothing to do (R253). -/
def State.reset : State where
  ctrl := 0
  poly := 0
  init := 0
  xorout := 0
  acc := 0
  result := 0
  status := 0
  rstart := 0
  rend := 0
  target := 0
  imgLow := 0
  imgHigh := 0
  tblIdx := 0
  tbl := drawnTable 0
  image := []
  pending := []
  readData := none
  imageData := none
  draws := 1

end Sys2Proof.Machine
end

