-- ==== Sys2Proof/Machine/Flags.lean ====
section
/-! DEFINITION. The bits of `STATUS`: where each stands (R36, R227), and the ways a bit is set and cleared. -/

namespace Sys2Proof.Machine

/-- The bit number of a field of `STATUS`, which is also its cause code (R36, R227). -/
def statusIndex : StatusBit → Nat
  | .busy => 0
  | .tableValid => 1
  | .accValid => 2
  | .resultValid => 3
  | .clipped => 4
  | .errCmd => 5
  | .errCfg => 6
  | .errSeq => 7
  | .errAddr => 8

/-- The word with only that bit set. -/
def statusWord (f : StatusBit) : Word := 1#32 <<< statusIndex f

/-- `STATUS.F`. -/
def flag (f : StatusBit) (s : State) : Bool := s.status.getLsbD (statusIndex f)

/-- `STATUS.F <- 1`. -/
def setFlag (f : StatusBit) (s : State) : State := { s with status := s.status ||| statusWord f }

/-- `STATUS.F <- 0`. -/
def clearFlag (f : StatusBit) (s : State) : State := { s with status := s.status &&& ~~~statusWord f }

/-- TABLE_VALID, ACC_VALID and RESULT_VALID cleared together (R101). -/
def clearValid (s : State) : State :=
  clearFlag .resultValid (clearFlag .accValid (clearFlag .tableValid s))

/-- The sticky bits, 4 to 8 (R36, R39). -/
def stickyMask : Word := 0x000001F0

/-- The host's write of `data` to `STATUS` clears the sticky bits whose `data` bit is 1 (R111, R231). -/
def clearSticky (data : Word) (s : State) : State :=
  { s with status := s.status &&& ~~~(data &&& stickyMask) }

end Sys2Proof.Machine
end

