-- ==== Sys2Proof/Machine/Operands.lean ====
section
/-! DEFINITION. What the commands take from the registers: the fields of `CTRL`, the effective range and the store bounds. -/

namespace Sys2Proof.Machine

/-- The implemented bits of `CTRL`; bits [31:6] read 0 and ignore writes (R24, R87). -/
def ctrlMask : Word := 0x0000003F

/-- `CTRL.WIDTH` (R25). -/
def widthField (c : Word) : BitVec 2 := c.extractLsb' 0 2

/-- `CTRL.REFIN` (R26). -/
def refin (c : Word) : Bool := c.getLsbD 2

/-- `CTRL.REFOUT`, which no rule of the datapath reads (R27). -/
def refout (c : Word) : Bool := c.getLsbD 3

/-- `CTRL.ENDIAN`: true for big (R28). -/
def endianBig (c : Word) : Bool := c.getLsbD 4

/-- `CTRL.RANGE_EN` (R29). -/
def rangeEn (c : Word) : Bool := c.getLsbD 5

/-- `W(CTRL)`: none for the reserved value 3 (R11). -/
def crcWidth (c : Word) : Option CrcWidth :=
  match (widthField c).toNat with
  | 0 => some .w8
  | 1 => some .w16
  | 2 => some .w32
  | _ => none

/-- `s0` of R164: the requested start. -/
def requestedStart (s : State) : Nat := if rangeEn s.ctrl then s.rstart.toNat else s.imgLow.toNat

/-- `e0` of R164: the requested end. -/
def requestedEnd (s : State) : Nat := if rangeEn s.ctrl then s.rend.toNat else s.imgHigh.toNat

/-- `s` of R164: a start below the image is raised to `IMG_LOW` (R12). -/
def effStart (s : State) : Nat := max (requestedStart s) s.imgLow.toNat

/-- `e` of R164: an end above the image is lowered to `IMG_HIGH` (R12). -/
def effEnd (s : State) : Nat := min (requestedEnd s) s.imgHigh.toNat

/-- `clipped` of R164: whether an endpoint moved. -/
def rangeClipped (s : State) : Bool := effStart s != requestedStart s || effEnd s != requestedEnd s

/-- How many addresses the loop `for a from s to e` visits: none when `s > e` (R9). -/
def rangeLength (s : State) : Nat := effEnd s + 1 - effStart s

/-- `IMG_LOW > IMG_HIGH`: there is no image (R225). -/
def noImage (s : State) : Bool := decide (s.imgHigh.toNat < s.imgLow.toNat)

/-- `storeok(n)` for `n = nbytes`, in integers that never wrap (R182, R8). -/
def storeOk (w : CrcWidth) (s : State) : Bool :=
  decide (s.imgLow.toNat ≤ s.imgHigh.toNat ∧ s.imgLow.toNat ≤ s.target.toNat ∧
    s.target.toNat + widthBytes w - 1 ≤ s.imgHigh.toNat)

end Sys2Proof.Machine
end

