-- ==== Sys2Proof/Machine/Ops.lean ====
section
/-! DEFINITION. The operations the meanings share: the image, rejecting a command (this block's only exception, R220 to
R231), the bodies of the commands after their checks, and the host's side of a step. -/

namespace Sys2Proof.Machine

/-! The image -/

/-- The byte an image holds at an address, none outside the buffer (R61). -/
def Memory.read : Memory → Nat → Option Byte
  | [], _ => none
  | (b, v) :: m, a => if a = b then some v else Memory.read m a

/-- The image with one byte set and no other changed (R62), in canonical form when the image was. -/
def Memory.write : Memory → Nat → Byte → Memory
  | [], a, v => [(a, v)]
  | (b, x) :: m, a, v =>
    if a < b then (a, v) :: (b, x) :: m
    else if a = b then (a, v) :: m
    else (b, x) :: Memory.write m a v

/-- `MemRead(a, 1)` (R61). Outside the buffer there is no step (R255). -/
def memRead (a : Nat) (s : State) : Except Fault Byte :=
  match s.image.read a with
  | some v => .ok v
  | none => .error .outsideBuffer

/-- `MemWrite(a, 1, v)` (R62). Outside the buffer there is no step (R255). -/
def memWrite (a : Nat) (v : Byte) (s : State) : Except Fault State :=
  match s.image.read a with
  | some _ => .ok { s with image := s.image.write a v }
  | none => .error .outsideBuffer

/-! Rejecting a command, and the checks -/

/-- `raise Error(E)`: sets the sticky bit of `E` and ends the command, with no other effect (R9, R221). There is no trap
entry: nothing is saved and control goes nowhere (R230). The return from it is `clearSticky` (R231). -/
def reject (e : StatusBit) (s : State) : Outcome := .next (setFlag e s)

/-- `if CTRL.WIDTH = 3 then raise Error(ERR_CFG)`, else the rest of the command with `W(CTRL)` (R223). -/
def withWidth (s : State) (rest : CrcWidth → Outcome) : Outcome :=
  match crcWidth s.ctrl with
  | none => reject .errCfg s
  | some w => rest w

/-- The outcome of a body that may reach outside the buffer. -/
def finish : Except Fault State → Outcome
  | .ok s => .next s
  | .error f => .fault f

/-! The bodies of the commands, after their checks -/

/-- The body of BUILD (R140). -/
def buildBody (w : CrcWidth) (s : State) : State :=
  setFlag .tableValid { s with tbl := tableOf (tblEntry w (refin s.ctrl) s.poly) }

/-- What START loads: `INIT` masked, and reflected in the reflected variant (R160). -/
def startValue (w : CrcWidth) (s : State) : Word :=
  if refin s.ctrl then reflect w (s.init &&& widthMask w) else s.init &&& widthMask w

/-- The body of START (R160). -/
def startBody (w : CrcWidth) (s : State) : State :=
  clearFlag .resultValid (setFlag .accValid { s with acc := startValue w s })

/-- The body of FOLD (R162). -/
def foldBody (w : CrcWidth) (b : Byte) (s : State) : State :=
  { s with acc := crcFold w (refin s.ctrl) s.tbl s.acc b }

/-- The loop of FOLDRANGE: `n` bytes from address `a` up, each read and folded in turn (R163). -/
def foldFrom (w : CrcWidth) : Nat → Nat → State → Except Fault State
  | 0, _, s => .ok s
  | n + 1, a, s =>
    match memRead a s with
    | .ok b => foldFrom w n (a + 1) (foldBody w b s)
    | .error f => .error f

/-- CLIPPED is set when a range endpoint moved (R163, R226). -/
def reportClip (s : State) : State := if rangeClipped s then setFlag .clipped s else s

/-- The body of FOLDRANGE (R163). -/
def foldRangeBody (w : CrcWidth) (s : State) : Except Fault State :=
  foldFrom w (rangeLength s) (effStart s) (reportClip s)

/-- The body of FINAL (R180). -/
def finalBody (w : CrcWidth) (s : State) : State :=
  setFlag .resultValid { s with result := (s.acc ^^^ s.xorout) &&& widthMask w }

/-- The loop of STORE: bytes `k`, ..., `k + n - 1` of the result field (R181). -/
def storeFrom (w : CrcWidth) : Nat → Nat → State → Except Fault State
  | 0, _, s => .ok s
  | n + 1, k, s =>
    match memWrite (s.target.toNat + k) (storeByte s.result (widthBytes w) (endianBig s.ctrl) k) s with
    | .ok s' => storeFrom w n (k + 1) s'
    | .error f => .error f

/-- The body of STORE (R181). -/
def storeBody (w : CrcWidth) (s : State) : Except Fault State := storeFrom w (widthBytes w) 0 s

/-- The bodies of BUILD, START, FOLDRANGE, FINAL and STORE in this order (R201). -/
def computeBody (w : CrcWidth) (s : State) : Except Fault State :=
  match foldRangeBody w (startBody w (buildBody w s)) with
  | .ok s' => storeBody w (finalBody w s')
  | .error f => .error f

/-! The host's side -/

/-- A bus Read returns `data` to the host and changes no state of the block (R88, R100). -/
def respond (data : Word) (s : State) : State := { s with readData := some data }

/-- The reset (R250, R251): every register at its reset value and the table drawn anew. The image and the host's side are
not touched (R252). -/
def assertReset (s : State) : State :=
  { State.reset with
    tbl := drawnTable s.draws
    draws := s.draws + 1
    image := s.image
    pending := s.pending
    readData := s.readData
    imageData := s.imageData }

/-- The host writes a byte of its image, which is then a byte of its buffer (R60, R61; log entry 8). -/
def hostImageWrite (a : Word) (v : Byte) (s : State) : State :=
  { s with image := s.image.write a.toNat v }

/-- The host reads a byte of its image (R61, R69). -/
def hostImageRead (a : Word) (s : State) : Except Fault State :=
  match memRead a.toNat s with
  | .ok v => .ok { s with imageData := some v }
  | .error f => .error f

/-- The host's next action, taken off the list of what it will do (log entry 1). -/
def fetch (s : State) : Option (HostAction × State) :=
  match s.pending with
  | [] => none
  | a :: rest => some (a, { s with pending := rest })

/-- The Read of `STATUS`, the one access allowed while BUSY = 1 (R263). -/
def isStatusRead : HostAction → Bool
  | .request (.bus t) => decide (t.dir = .read ∧ t.offset = 0x1C ∧ t.size = 4)
  | _ => false

/-- Whether an action is an access that BUSY forbids: any but a `STATUS` read (R263); the reset is no access. -/
def busyForbids (a : HostAction) (s : State) : Bool :=
  flag .busy s && !isStatusRead a && decide (a ≠ .reset)

/-- What a request that decodes to nothing does: an invalid command word is rejected with ERR_CMD (R85, R222), an ill-formed
transaction is a bus error (R116). -/
def rejectRequest (e : DecodeError) (s : State) : Outcome :=
  match e with
  | .nonzeroRsvd => reject .errCmd s
  | .reservedOpcode => reject .errCmd s
  | .nonzeroArg => reject .errCmd s
  | .badSize => .fault .busError
  | .misaligned => .fault .busError
  | .unmapped => .fault .busError

end Sys2Proof.Machine
end

