-- ==== Sys2Proof/Machine/BusReads.lean ====
section
/-! DEFINITION. The meanings of the fifteen register Reads (R100, R113, R115). A Read changes no state of the block; it
gives the host the register's 32 bits. -/

namespace Sys2Proof.Machine

/-- Read of `CTRL` (R100). -/
def execRdCtrl (s : State) : Outcome := .next (respond s.ctrl s)

/-- Read of `POLY` (R100). -/
def execRdPoly (s : State) : Outcome := .next (respond s.poly s)

/-- Read of `INIT` (R100). -/
def execRdInit (s : State) : Outcome := .next (respond s.init s)

/-- Read of `XOROUT` (R100). -/
def execRdXorout (s : State) : Outcome := .next (respond s.xorout s)

/-- Read of `ACC` (R100). -/
def execRdAcc (s : State) : Outcome := .next (respond s.acc s)

/-- Read of `RESULT` (R100). -/
def execRdResult (s : State) : Outcome := .next (respond s.result s)

/-- Read of `CMD`: always 0; `CMD` is not storage (R113, R35). -/
def execRdCmd (s : State) : Outcome := .next (respond 0 s)

/-- Read of `STATUS`: reserved bits read 0 because they are 0 in the state (R100). -/
def execRdStatus (s : State) : Outcome := .next (respond s.status s)

/-- Read of `RSTART` (R100). -/
def execRdRstart (s : State) : Outcome := .next (respond s.rstart s)

/-- Read of `REND` (R100). -/
def execRdRend (s : State) : Outcome := .next (respond s.rend s)

/-- Read of `TARGET` (R100). -/
def execRdTarget (s : State) : Outcome := .next (respond s.target s)

/-- Read of `IMG_LOW` (R100). -/
def execRdImgLow (s : State) : Outcome := .next (respond s.imgLow s)

/-- Read of `IMG_HIGH` (R100). -/
def execRdImgHigh (s : State) : Outcome := .next (respond s.imgHigh s)

/-- Read of `TBL_IDX`: its 8 bits, the bits above read 0 (R100, R41). -/
def execRdTblIdx (s : State) : Outcome := .next (respond (s.tblIdx.setWidth 32) s)

/-- Read of `TBL_DATA`: `TBL[TBL_IDX]` as it stands, whatever TABLE_VALID is (R115, R41). -/
def execRdTblData (s : State) : Outcome := .next (respond (tableAt s.tbl s.tblIdx) s)

end Sys2Proof.Machine
end

