-- ==== Sys2Proof/Machine/Commands.lean ====
section
/-! DEFINITION. The meanings of the eight commands (R81). Every check comes before the first state change (R221), in the
order of R228. -/

namespace Sys2Proof.Machine

/-- NOP (R200). It checks nothing, not even `CTRL.WIDTH`. -/
def execNop (s : State) : Outcome := .next s

/-- BUILD (R140). -/
def execBuild (s : State) : Outcome :=
  withWidth s fun w => .next (buildBody w s)

/-- START (R160). -/
def execStart (s : State) : Outcome :=
  withWidth s fun w => .next (startBody w s)

/-- FOLD (R162). -/
def execFold (b : Byte) (s : State) : Outcome :=
  withWidth s fun w =>
    if flag .tableValid s && flag .accValid s then .next (foldBody w b s) else reject .errSeq s

/-- FINAL (R180). -/
def execFinal (s : State) : Outcome :=
  withWidth s fun w =>
    if flag .accValid s then .next (finalBody w s) else reject .errSeq s

/-- FOLDRANGE (R163). -/
def execFoldRange (s : State) : Outcome :=
  withWidth s fun w =>
    if flag .tableValid s && flag .accValid s then
      if noImage s then reject .errAddr s else finish (foldRangeBody w s)
    else reject .errSeq s

/-- STORE (R181). -/
def execStore (s : State) : Outcome :=
  withWidth s fun w =>
    if flag .resultValid s then
      if storeOk w s then finish (storeBody w s) else reject .errAddr s
    else reject .errSeq s

/-- COMPUTE (R201). -/
def execCompute (s : State) : Outcome :=
  withWidth s fun w =>
    if noImage s then reject .errAddr s
    else if storeOk w s then finish (computeBody w s)
    else reject .errAddr s

/-- `execute(c)` of R112: the rule of the decoded command. -/
def runCommand (c : Command) (s : State) : Outcome :=
  match c with
  | .nop => execNop s
  | .build => execBuild s
  | .start => execStart s
  | .fold b => execFold b s
  | .final => execFinal s
  | .foldRange => execFoldRange s
  | .store => execStore s
  | .compute => execCompute s

end Sys2Proof.Machine
end

