-- ==== Sys2Proof/Machine/BusWrites.lean ====
section
/-! DEFINITION. The meanings of the fifteen register Writes (R101 to R112, R114). -/

namespace Sys2Proof.Machine

/-- Write of `CTRL` (R101): bits [31:6] are dropped, and the three validity bits are cleared when WIDTH or REFIN changes. -/
def execWrCtrl (data : Word) (s : State) : Outcome :=
  let new := data &&& ctrlMask
  if widthField new ≠ widthField s.ctrl ∨ refin new ≠ refin s.ctrl then
    .next { clearValid s with ctrl := new }
  else
    .next { s with ctrl := new }

/-- Write of `POLY` (R102): TABLE_VALID is cleared on every write. -/
def execWrPoly (data : Word) (s : State) : Outcome :=
  .next (clearFlag .tableValid { s with poly := data })

/-- Write of `INIT` (R103); `ACC` is not reloaded. -/
def execWrInit (data : Word) (s : State) : Outcome := .next { s with init := data }

/-- Write of `XOROUT` (R104); `RESULT` is not recomputed. -/
def execWrXorout (data : Word) (s : State) : Outcome := .next { s with xorout := data }

/-- Write of `ACC`: ignored, and no bus error (R110). -/
def execWrAcc (_data : Word) (s : State) : Outcome := .next s

/-- Write of `RESULT`: ignored, and no bus error (R110). -/
def execWrResult (_data : Word) (s : State) : Outcome := .next s

/-- Write of `CMD` (R112): the word is decoded, and the command runs to completion within this access (R70). -/
def execWrCmd (data : Word) (s : State) : Outcome :=
  match decodeCommand data with
  | .ok c => runCommand c s
  | .error _ => reject .errCmd s

/-- Write of `STATUS` (R111): write 1 to clear, on the sticky bits only. -/
def execWrStatus (data : Word) (s : State) : Outcome := .next (clearSticky data s)

/-- Write of `RSTART` (R105); nothing is clipped here. -/
def execWrRstart (data : Word) (s : State) : Outcome := .next { s with rstart := data }

/-- Write of `REND` (R106); nothing is clipped here. -/
def execWrRend (data : Word) (s : State) : Outcome := .next { s with rend := data }

/-- Write of `TARGET` (R107); no bounds check here. -/
def execWrTarget (data : Word) (s : State) : Outcome := .next { s with target := data }

/-- Write of `IMG_LOW` (R108); `IMG_LOW > IMG_HIGH` is accepted. -/
def execWrImgLow (data : Word) (s : State) : Outcome := .next { s with imgLow := data }

/-- Write of `IMG_HIGH` (R109). -/
def execWrImgHigh (data : Word) (s : State) : Outcome := .next { s with imgHigh := data }

/-- Write of `TBL_IDX` (R114); bits [31:8] are dropped. -/
def execWrTblIdx (data : Word) (s : State) : Outcome := .next { s with tblIdx := data.setWidth 8 }

/-- Write of `TBL_DATA`: ignored, and no bus error (R110). -/
def execWrTblData (_data : Word) (s : State) : Outcome := .next s

end Sys2Proof.Machine
end

