-- ==== Sys2Proof/Machine/Dispatch.lean ====
section
/-! DEFINITION. The dispatch: one arm per instruction, one meaning per arm. -/

namespace Sys2Proof.Machine

def exec (i : Instr) (s : State) : Host.Outcome State Fault Refusal :=
  match i with
  | .nop => Sys2Proof.Machine.execNop s
  | .build => Sys2Proof.Machine.execBuild s
  | .start => Sys2Proof.Machine.execStart s
  | .fold b => Sys2Proof.Machine.execFold b s
  | .final => Sys2Proof.Machine.execFinal s
  | .foldRange => Sys2Proof.Machine.execFoldRange s
  | .store => Sys2Proof.Machine.execStore s
  | .compute => Sys2Proof.Machine.execCompute s
  | .rdCtrl => Sys2Proof.Machine.execRdCtrl s
  | .wrCtrl data => Sys2Proof.Machine.execWrCtrl data s
  | .rdPoly => Sys2Proof.Machine.execRdPoly s
  | .wrPoly data => Sys2Proof.Machine.execWrPoly data s
  | .rdInit => Sys2Proof.Machine.execRdInit s
  | .wrInit data => Sys2Proof.Machine.execWrInit data s
  | .rdXorout => Sys2Proof.Machine.execRdXorout s
  | .wrXorout data => Sys2Proof.Machine.execWrXorout data s
  | .rdAcc => Sys2Proof.Machine.execRdAcc s
  | .wrAcc data => Sys2Proof.Machine.execWrAcc data s
  | .rdResult => Sys2Proof.Machine.execRdResult s
  | .wrResult data => Sys2Proof.Machine.execWrResult data s
  | .rdCmd => Sys2Proof.Machine.execRdCmd s
  | .wrCmd data => Sys2Proof.Machine.execWrCmd data s
  | .rdStatus => Sys2Proof.Machine.execRdStatus s
  | .wrStatus data => Sys2Proof.Machine.execWrStatus data s
  | .rdRstart => Sys2Proof.Machine.execRdRstart s
  | .wrRstart data => Sys2Proof.Machine.execWrRstart data s
  | .rdRend => Sys2Proof.Machine.execRdRend s
  | .wrRend data => Sys2Proof.Machine.execWrRend data s
  | .rdTarget => Sys2Proof.Machine.execRdTarget s
  | .wrTarget data => Sys2Proof.Machine.execWrTarget data s
  | .rdImgLow => Sys2Proof.Machine.execRdImgLow s
  | .wrImgLow data => Sys2Proof.Machine.execWrImgLow data s
  | .rdImgHigh => Sys2Proof.Machine.execRdImgHigh s
  | .wrImgHigh data => Sys2Proof.Machine.execWrImgHigh data s
  | .rdTblIdx => Sys2Proof.Machine.execRdTblIdx s
  | .wrTblIdx data => Sys2Proof.Machine.execWrTblIdx data s
  | .rdTblData => Sys2Proof.Machine.execRdTblData s
  | .wrTblData data => Sys2Proof.Machine.execWrTblData data s

end Sys2Proof.Machine
end

