-- ==== Sys2Proof/Machine/Step.lean ====
section
/-! DEFINITION. One step of the machine: the host's next action, run to completion (R70). -/

namespace Sys2Proof.Machine

/-- One atomic step (R70). With nothing to do, the block is idle (R238; log entry 2). -/
def step (s : State) : Host.Outcome State Fault Refusal :=
  match fetch s with
  | none => .next s
  | some (a, s') =>
    if busyForbids a s' then .fault .busyAccess
    else
      match a with
      | .request r =>
        match decode r with
        | .ok i => exec i s'
        | .error e => rejectRequest e s'
      | .reset => .next (assertReset s')
      | .imageWrite a v => .next (hostImageWrite a v s')
      | .imageRead a => finish (hostImageRead a s')

/-- The state whose next host action is the access that a word of the opcode table stands for (log entries 1 and 4). -/
def State.withFetchWord (s : State) (nbits w : Nat) : State :=
  { s with pending := .request (tableRequest nbits w) :: s.pending }

end Sys2Proof.Machine
end

