-- ==== Sys2Proof/Machine/HostSyntax.lean ====
section
/-! DEFINITION. The lines of a host program (R89) and the pseudo-instructions with their expansions (R90), as the actions the
host then takes. -/

namespace Sys2Proof.Machine

/-- `rd REG` (R89). -/
def lineRd (r : Reg) : HostAction := .request (busRead r)

/-- `wr REG, value` (R89). -/
def lineWr (r : Reg) (value : Word) : HostAction := .request (busWrite r value)

/-- `cmd MNEMONIC`, and `cmd FOLD b` (R89). -/
def lineCmd (c : Command) : HostAction := .request (encode c.toInstr)

/-- `wcode` of R90: the WIDTH code of a CRC width. -/
def widthCode : CrcWidth → Word
  | .w8 => 0
  | .w16 => 1
  | .w32 => 2

/-- A flag as a word of 0 or 1. -/
def bitWord (b : Bool) : Word := if b then 1 else 0

/-- The `CTRL` word of `cfg W, refin, refout, endian, range_en` (R90). -/
def cfgWord (w : CrcWidth) (rin rout big ren : Bool) : Word :=
  widthCode w ||| (bitWord rin <<< 2) ||| (bitWord rout <<< 3) ||| (bitWord big <<< 4) ||| (bitWord ren <<< 5)

/-- `cfg W, refin, refout, endian, range_en` (R90). -/
def pseudoCfg (w : CrcWidth) (rin rout big ren : Bool) : List HostAction :=
  [lineWr .ctrl (cfgWord w rin rout big ren)]

/-- `params poly, init, xorout` (R90). -/
def pseudoParams (poly init xorout : Word) : List HostAction :=
  [lineWr .poly poly, lineWr .init init, lineWr .xorout xorout]

/-- `image lo, hi` (R90). -/
def pseudoImage (lo hi : Word) : List HostAction := [lineWr .imgLow lo, lineWr .imgHigh hi]

/-- `range s, e` (R90). -/
def pseudoRange (s e : Word) : List HostAction := [lineWr .rstart s, lineWr .rend e]

/-- `folds "text"`, the text given as its bytes (R90). -/
def pseudoFolds (text : List Byte) : List HostAction := text.map fun b => lineCmd (.fold b)

/-- `clrstat`, which clears every sticky bit (R90). -/
def pseudoClrstat : List HostAction := [lineWr .status 0x000001F0]

end Sys2Proof.Machine
end

