-- ==== Sys2Proof/Reference.lean ====
section
/-! DEFINITION. The bit-at-a-time reference CRC that R166 compares the engine with (G4): the common parameterised model, one
message bit at a time through a register of exactly `W` bits. It shares nothing with the engine's table or fold. -/

namespace Sys2Proof.Reference

/-- One message bit enters at the register's top. -/
def bit {W : Nat} (poly r : BitVec W) (b : Bool) : BitVec W :=
  if r.msb ^^ b then (r <<< 1) ^^^ poly else r <<< 1

/-- The bits of a byte in the order they enter: least significant first when the input is reflected. -/
def bitsOf (refin : Bool) (b : Byte) : List Bool :=
  if refin then [b.getLsbD 0, b.getLsbD 1, b.getLsbD 2, b.getLsbD 3, b.getLsbD 4, b.getLsbD 5, b.getLsbD 6, b.getLsbD 7]
  else [b.getLsbD 7, b.getLsbD 6, b.getLsbD 5, b.getLsbD 4, b.getLsbD 3, b.getLsbD 2, b.getLsbD 1, b.getLsbD 0]

/-- The reference CRC of a message. -/
def crc {W : Nat} (poly init xorout : BitVec W) (refin refout : Bool) (msg : List Byte) : BitVec W :=
  let r := (msg.flatMap (bitsOf refin)).foldl (bit poly) init
  (if refout then r.reverse else r) ^^^ xorout

end Sys2Proof.Reference
end

