-- ==== Sys2Proof/Safety.lean ====
section
/-! DEFINITION. The terms the claims are stated in: the invariant of the machine, the launch premise on the image, the bytes
of a range, and sequences of instructions and of steps. -/

namespace Sys2Proof.Machine

/-- What holds of every state a run reaches: the image is canonical, the reserved bits of `CTRL` and `STATUS` are 0 (R45),
BUSY is 0 (R37), and the validity bits say what the datapath holds (R38, R142, R33). -/
structure State.Inv (s : State) : Prop where
  /-- The image is in canonical form. -/
  image_wf : Memory.wf s.image
  /-- `CTRL[31:6]` is 0 (R24, R45). -/
  ctrl_reserved : s.ctrl &&& ~~~ctrlMask = 0
  /-- `STATUS[31:9]` and BUSY are 0 (R36, R37, R45). -/
  status_reserved : s.status &&& 0xFFFFFE01 = 0
  /-- With the reserved width nothing is valid: the write that selected it cleared the validity bits (R101). -/
  invalid_width : crcWidth s.ctrl = none →
    flag .tableValid s = false ∧ flag .accValid s = false ∧ flag .resultValid s = false
  /-- TABLE_VALID: `TBL` is the table that WIDTH, REFIN and `POLY` give (R38). -/
  table_valid : ∀ w, crcWidth s.ctrl = some w → flag .tableValid s = true →
    s.tbl = tableOf (tblEntry w (refin s.ctrl) s.poly)
  /-- ACC_VALID: `ACC` is a value of the current width (R33, R38). -/
  acc_valid : ∀ w, crcWidth s.ctrl = some w → flag .accValid s = true → s.acc.toNat < 2 ^ widthBits w
  /-- RESULT_VALID: `RESULT` is a value of the current width (R38, R180). -/
  result_valid : ∀ w, crcWidth s.ctrl = some w → flag .resultValid s = true → s.result.toNat < 2 ^ widthBits w

/-- The launch premise of R255: every address of the image window is a byte of the host's buffer. -/
def windowOwned (s : State) : Prop :=
  ∀ a, s.imgLow.toNat ≤ a → a ≤ s.imgHigh.toNat → (s.image.read a).isSome = true

/-- `bytes` are the image bytes of the effective range, in ascending address order (R66, R163). -/
def rangeBytes (s : State) (bytes : List Byte) : Prop :=
  bytes.length = rangeLength s ∧
    ∀ k (h : k < bytes.length), s.image.read (effStart s + k) = some bytes[k]

/-- The addresses of the result field, `TARGET` to `TARGET + nbytes - 1` (R181). -/
def inTargetField (w : CrcWidth) (s : State) (a : Nat) : Prop :=
  s.target.toNat ≤ a ∧ a < s.target.toNat + widthBytes w

/-- The error a command is rejected with, if any: the first whose condition holds, in the order of R228. -/
def firstError (c : Command) (s : State) : Option StatusBit :=
  let width := if crcWidth s.ctrl = none then some .errCfg else none
  let sequence (ok : Bool) : Option StatusBit := if ok then none else some .errSeq
  let image := if s.imgHigh.toNat < s.imgLow.toNat then some .errAddr else none
  let target :=
    match crcWidth s.ctrl with
    | none => none
    | some w => if storeOk w s then none else some .errAddr
  match c with
  | .nop => none
  | .build => width
  | .start => width
  | .fold _ => width <|> sequence (flag .tableValid s && flag .accValid s)
  | .foldRange => width <|> sequence (flag .tableValid s && flag .accValid s) <|> image
  | .final => width <|> sequence (flag .accValid s)
  | .store => width <|> sequence (flag .resultValid s) <|> target
  | .compute => width <|> image <|> target

/-- `s` with the bits of `m` in `CTRL` flipped. -/
def flipCtrl (m : Word) (s : State) : State := { s with ctrl := s.ctrl ^^^ m }

/-- An outcome with a change made to its next state. -/
def mapNext (f : State → State) : Outcome → Outcome
  | .next s => .next (f s)
  | .fault e => .fault e
  | .refused r => .refused r

/-- The instruction runs the command: as its `cmd` line, or as the write of a word that decodes to it (R89, R112). -/
def runsCommand (c : Command) (i : Instr) : Prop :=
  i = c.toInstr ∨ ∃ w, i = .wrCmd w ∧ decodeCommand w = .ok c

/-- The instruction runs the body of BUILD, START or FINAL again: the command itself, or COMPUTE, which runs all three (R201). -/
def redoes (c : Command) (i : Instr) : Prop := runsCommand c i ∨ runsCommand .compute i

/-- The instructions in turn, up to the first stop. -/
def execAll : List Instr → State → Outcome
  | [], s => .next s
  | i :: is, s =>
    match exec i s with
    | .next t => execAll is t
    | .fault f => .fault f
    | .refused r => .refused r

/-- The next `n` steps in turn, up to the first stop. -/
def runSteps : Nat → State → Outcome
  | 0, s => .next s
  | n + 1, s =>
    match step s with
    | .next t => runSteps n t
    | .fault f => .fault f
    | .refused r => .refused r

end Sys2Proof.Machine
end

