-- ==== Sys2Proof/Certificates/Slice0/Obligations.lean ====
section
/-! DEFINITION. The statements for the provers, each from the rules its docstring names. -/

open Sys2Proof Sys2Proof.Machine

/-! Reset -/

/-- R250, R252: reset zeroes every register and STATUS, selects CRC8, normal, little-endian, whole image, and leaves the image
alone; the host asserts it between transactions. -/
def Obligations.ResetZeroesEveryRegister : Prop :=
  (∀ s t : State, t = State.reset ∨ t = assertReset s →
    t.ctrl = 0 ∧ t.poly = 0 ∧ t.init = 0 ∧ t.xorout = 0 ∧ t.acc = 0 ∧ t.result = 0 ∧ t.rstart = 0 ∧ t.rend = 0 ∧
      t.target = 0 ∧ t.imgLow = 0 ∧ t.imgHigh = 0 ∧ t.tblIdx = 0 ∧ t.status = 0 ∧
      crcWidth t.ctrl = some .w8 ∧ refin t.ctrl = false ∧ endianBig t.ctrl = false ∧ rangeEn t.ctrl = false ∧
      ∀ f, flag f t = false) ∧
  ∀ (s : State) (rest : List HostAction), s.pending = .reset :: rest →
    ∃ t, step s = .next t ∧ t = assertReset { s with pending := rest } ∧ t.image = s.image

/-! The invariant -/

/-- State.reset satisfies the invariant. -/
def Obligations.ResetSatisfiesTheInvariant : Prop := State.reset.Inv

/-- Every step keeps the invariant: the image's canonical form, the reserved bits and BUSY at 0 (R37, R45), and what the three
validity bits say of TBL, ACC and RESULT (R38). -/
def Obligations.EveryStepKeepsTheInvariant : Prop :=
  ∀ s t : State, s.Inv → step s = .next t → t.Inv

/-- R37: BUSY reads 0 at every host access of a state the invariant admits. -/
def Obligations.BusyReadsZero : Prop :=
  ∀ s : State, s.Inv → ∃ v : Word, exec .rdStatus s = .next { s with readData := some v } ∧ v.getLsbD 0 = false

/-! Encoding -/

/-- Decode and encode agree both ways: on every instruction, on every valid command word, and on every well-formed transaction
(but for the data of a Read, which means nothing). -/
def Obligations.DecodeAndEncodeAgree : Prop :=
  (∀ i : Instr, decode (encode i) = .ok i) ∧
  (∀ (w : Word) (i : Instr), decode (.cmd w) = .ok i → encode i = .cmd w) ∧
  ∀ (t : Transaction) (i : Instr), decode (.bus t) = .ok i →
    (t.dir = .write → encode i = .bus t) ∧ (t.dir = .read → encode i = .bus { t with data := 0 })

/-- A few words written out from R81 and R88 decode to the instructions they stand for. -/
def Obligations.SampleWordsDecode : Prop :=
  decode (.cmd 0x00000000) = .ok .nop ∧
  decode (.cmd 0x00000001) = .ok .build ∧
  decode (.cmd 0x00003103) = .ok (.fold 0x31) ∧
  decode (.cmd 0x00000007) = .ok .compute ∧
  decode (.bus ⟨.read, 0x38, 4, 0⟩) = .ok .rdTblData ∧
  decode (.bus ⟨.write, 0x00, 4, 0x00000026⟩) = .ok (.wrCtrl 0x00000026) ∧
  decode (.bus ⟨.write, 0x18, 4, 0x00003103⟩) = .ok (.wrCmd 0x00003103)

/-- R85: a word is invalid exactly when RSVD is not 0, OP is above 0x07, or ARG is not 0 off FOLD; writing it to CMD sets
ERR_CMD (bit 5) and changes nothing else. That a bare word is a request too, with the same effect, is the model's choice (log
entry 3). -/
def Obligations.InvalidCommandWordOnlySetsErrCmd : Prop :=
  ∀ w : Word,
    ((∃ e, decodeCommand w = .error e) ↔
      w.extractLsb' 16 16 ≠ 0 ∨ 0x07 < w.extractLsb' 0 8 ∨ (w.extractLsb' 0 8 ≠ 0x03 ∧ w.extractLsb' 8 8 ≠ 0)) ∧
    ((∃ e, decodeCommand w = .error e) → ∀ (s : State) (rest : List HostAction),
      exec (.wrCmd w) s = .next { s with status := s.status ||| 0x00000020 } ∧
      (flag .busy s = false → s.pending = .request (.cmd w) :: rest →
        step s = .next { s with pending := rest, status := s.status ||| 0x00000020 }))

/-- R84: decoding is total; every valid word decodes to the one command of its OP, with FOLD's byte from ARG. -/
def Obligations.DecodeCommandFollowsTheOpcodeMap : Prop :=
  ∀ w : Word, w.extractLsb' 16 16 = 0 →
    (∀ b : Byte, decodeCommand w = .ok (.fold b) ↔ w.extractLsb' 0 8 = 0x03 ∧ w.extractLsb' 8 8 = b) ∧
    (w.extractLsb' 8 8 = 0 →
      (decodeCommand w = .ok .nop ↔ w.extractLsb' 0 8 = 0x00) ∧
      (decodeCommand w = .ok .build ↔ w.extractLsb' 0 8 = 0x01) ∧
      (decodeCommand w = .ok .start ↔ w.extractLsb' 0 8 = 0x02) ∧
      (decodeCommand w = .ok .final ↔ w.extractLsb' 0 8 = 0x04) ∧
      (decodeCommand w = .ok .foldRange ↔ w.extractLsb' 0 8 = 0x05) ∧
      (decodeCommand w = .ok .store ↔ w.extractLsb' 0 8 = 0x06) ∧
      (decodeCommand w = .ok .compute ↔ w.extractLsb' 0 8 = 0x07))

/-- R88: a transaction decodes exactly when it is well-formed, and the key of each of the 30 (dir, offset) pairs names it. That
a key is read from a 16-bit table word, with data 0, is the model's choice (log entry 4). -/
def Obligations.BusDecodesExactlyTheWellFormed : Prop :=
  (∀ t : Transaction, (∃ i, decode (.bus t) = .ok i) ↔ t.size = 4 ∧ t.offset % 4 = 0 ∧ t.offset ≤ 0x38) ∧
  ∀ r : Reg,
    decodeTableWord 16 r.offset = some (readOf r) ∧ decodeTableWord 16 (0x100 + r.offset) = some (writeOf 0 r)

/-! The step -/

/-- A step runs the decoded instruction: when the host's next action is a request that decodes to `i`, and BUSY is 0 or `i` is
the read of STATUS, step is exec of `i` with the action taken off the list. -/
def Obligations.StepRunsTheDecodedInstruction : Prop :=
  ∀ (s : State) (r : Request) (rest : List HostAction) (i : Instr),
    s.pending = .request r :: rest → decode r = .ok i → (flag .busy s = false ∨ i = .rdStatus) →
      step s = exec i { s with pending := rest }

/-- The word placed by withFetchWord is the one the next step runs. -/
def Obligations.PlacedTableWordRunsNext : Prop :=
  ∀ (s : State) (nbits w : Nat) (i : Instr),
    flag .busy s = false → decodeTableWord nbits w = some i → step (s.withFetchWord nbits w) = exec i s

/-- R89: the `cmd` line of a word is the write of that word to CMD. -/
def Obligations.CmdLineIsTheWriteOfCmd : Prop :=
  ∀ (s : State) (w : Word) (rest : List HostAction),
    step { s with pending := .request (.cmd w) :: rest } = step { s with pending := lineWr .cmd w :: rest }

/-- R116: an ill-formed transaction is a bus error, a fault. -/
def Obligations.IllFormedTransactionIsABusError : Prop :=
  ∀ (s : State) (t : Transaction) (rest : List HostAction),
    s.pending = .request (.bus t) :: rest → flag .busy s = false →
      (t.size ≠ 4 ∨ t.offset % 4 ≠ 0 ∨ 0x38 < t.offset) → step s = .fault .busError

/-- R263: with BUSY = 1 any access but a read of STATUS is a fault; and no state the invariant admits has BUSY = 1. -/
def Obligations.AccessWhileBusyFaults : Prop :=
  (∀ (s : State) (r : Request) (rest : List HostAction),
    s.pending = .request r :: rest → flag .busy s = true → decode r ≠ .ok .rdStatus → step s = .fault .busyAccess) ∧
  ∀ s : State, s.Inv → flag .busy s = false

/-- The model's choice (log entry 2, from R238): with nothing to do the block is idle. -/
def Obligations.IdleStepChangesNothing : Prop :=
  ∀ s : State, s.pending = [] → step s = .next s

/-- R61, with the model's choice of how the host acts (log entries 7 and 8): the host's write of an image byte is what the next
read of that byte gives, and no other byte changes; a read outside the buffer is stuck. -/
def Obligations.HostImageReadSeesTheLastWrite : Prop :=
  ∀ (s : State) (a : Word) (v : Byte) (rest : List HostAction), flag .busy s = false →
    (s.pending = .imageWrite a v :: rest →
      ∃ m, step s = .next { s with pending := rest, image := m } ∧
        m.read a.toNat = some v ∧ ∀ b, b ≠ a.toNat → m.read b = s.image.read b) ∧
    (s.pending = .imageRead a :: rest → s.image.read a.toNat = some v →
      step s = .next { s with pending := rest, imageData := some v }) ∧
    (s.pending = .imageRead a :: rest → s.image.read a.toNat = none → step s = .fault .outsideBuffer)

/-- The model's choice (log entries 1 and 2): a step takes the next action off the host's list and leaves the rest of the list
as it was; with an empty list it changes nothing. -/
def Obligations.StepTakesTheNextHostAction : Prop :=
  ∀ s t : State, step s = .next t →
    (∃ a, s.pending = a :: t.pending) ∨ (s.pending = [] ∧ t = s)

/-! Reads -/

/-- R100: a read of a storage register returns its 32 bits and changes no state of the block; the reserved bits read 0 in
every state the invariant admits. -/
def Obligations.StorageReadsReturnTheRegister : Prop :=
  ∀ s : State,
    exec .rdCtrl s = .next { s with readData := some s.ctrl } ∧
    exec .rdPoly s = .next { s with readData := some s.poly } ∧
    exec .rdInit s = .next { s with readData := some s.init } ∧
    exec .rdXorout s = .next { s with readData := some s.xorout } ∧
    exec .rdAcc s = .next { s with readData := some s.acc } ∧
    exec .rdResult s = .next { s with readData := some s.result } ∧
    exec .rdStatus s = .next { s with readData := some s.status } ∧
    exec .rdRstart s = .next { s with readData := some s.rstart } ∧
    exec .rdRend s = .next { s with readData := some s.rend } ∧
    exec .rdTarget s = .next { s with readData := some s.target } ∧
    exec .rdImgLow s = .next { s with readData := some s.imgLow } ∧
    exec .rdImgHigh s = .next { s with readData := some s.imgHigh } ∧
    (∃ v : Word, exec .rdTblIdx s = .next { s with readData := some v } ∧
      v.extractLsb' 0 8 = s.tblIdx ∧ v.extractLsb' 8 24 = 0) ∧
    (s.Inv → s.ctrl.extractLsb' 6 26 = 0 ∧ s.status.extractLsb' 9 23 = 0) ∧
    exec .rdPoly State.reset = .next { State.reset with readData := some 0x00000000 }

/-- R113: a read of CMD returns 0. -/
def Obligations.ReadOfCmdReturnsZero : Prop :=
  ∀ s : State, exec .rdCmd s = .next { s with readData := some 0x00000000 }

/-- R115: a read of TBL_DATA returns the selected entry as it stands, whatever TABLE_VALID is; after BUILD with the CRC-32
parameters entry 1 is 0x77073096. -/
def Obligations.ReadOfTblDataReturnsTheSelectedEntry : Prop :=
  (∀ s : State, exec .rdTblData s = .next { s with readData := some (tableAt s.tbl s.tblIdx) }) ∧
  ∀ s : State, crcWidth s.ctrl = some .w32 → refin s.ctrl = true → s.poly = 0x04C11DB7 →
    ∃ t, execAll [.build, .wrTblIdx 1, .rdTblData] s = .next t ∧ t.readData = some 0x77073096

/-- R30, R31, R32, R42, R43, R44 with R100 and the writes: the parameter, range, target and window registers read back all 32
bits as written, neither masked nor clipped. -/
def Obligations.ConfigurationReadsBackAsWritten : Prop :=
  ∀ (s : State) (d : Word) (p : Instr × Instr),
    p ∈ [(.wrPoly d, .rdPoly), (.wrInit d, .rdInit), (.wrXorout d, .rdXorout), (.wrRstart d, .rdRstart),
      (.wrRend d, .rdRend), (.wrTarget d, .rdTarget), (.wrImgLow d, .rdImgLow), (.wrImgHigh d, .rdImgHigh)] →
    ∃ t, execAll [p.1, p.2] s = .next t ∧ t.readData = some d

/-! Writes -/

/-- R101: a write of CTRL stores bits [5:0], and clears TABLE_VALID, ACC_VALID and RESULT_VALID (bits 1 to 3) exactly when
WIDTH or REFIN changes. -/
def Obligations.CtrlWriteInvalidatesOnWidthOrRefin : Prop :=
  (∀ (s : State) (d : Word),
    exec (.wrCtrl d) s = .next { s with
      ctrl := d &&& 0x0000003F
      status := if d.extractLsb' 0 2 ≠ s.ctrl.extractLsb' 0 2 ∨ d.getLsbD 2 ≠ s.ctrl.getLsbD 2
        then s.status &&& 0xFFFFFFF1 else s.status }) ∧
  (∀ s : State, s.ctrl &&& 0xFFFFFFC0 = 0 → exec (.wrCtrl s.ctrl) s = .next s) ∧
  exec (.wrCtrl 0xFFFFFFD5) State.reset = .next { State.reset with ctrl := 0x00000015 }

/-- R102: a write of POLY stores the word and clears TABLE_VALID (bit 1), even for the value already held. -/
def Obligations.PolyWriteClearsTableValid : Prop :=
  (∀ (s : State) (d : Word),
    exec (.wrPoly d) s = .next { s with poly := d, status := s.status &&& 0xFFFFFFFD }) ∧
  ∀ s : State, ∃ t, execAll [.wrPoly 0x12345607, .rdPoly] s = .next t ∧
    t.readData = some 0x12345607 ∧ flag .tableValid t = false

/-- R103, R104, R105, R107, R109 (and the pseudocode of R106 and R108): the plain configuration writes store the word and do
nothing else: nothing is reloaded, recomputed, clipped or checked. -/
def Obligations.ConfigurationWritesStoreTheWord : Prop :=
  ∀ (s : State) (d : Word),
    exec (.wrInit d) s = .next { s with init := d } ∧
    exec (.wrXorout d) s = .next { s with xorout := d } ∧
    exec (.wrRstart d) s = .next { s with rstart := d } ∧
    exec (.wrRend d) s = .next { s with rend := d } ∧
    exec (.wrTarget d) s = .next { s with target := d } ∧
    exec (.wrImgLow d) s = .next { s with imgLow := d } ∧
    exec (.wrImgHigh d) s = .next { s with imgHigh := d }

/-- R106, R108: bounds in the wrong order are accepted when written. A REND below RSTART then makes FOLDRANGE fold nothing, and
an IMG_LOW above IMG_HIGH makes FOLDRANGE, STORE and COMPUTE fail with ERR_ADDR (bit 8). -/
def Obligations.InvertedBoundsTakeEffectAtTheCommand : Prop :=
  ∀ (s : State) (d : Word) (w : CrcWidth), crcWidth s.ctrl = some w →
    (exec (.wrRend d) s = .next { s with rend := d }) ∧
    (exec (.wrImgLow d) s = .next { s with imgLow := d }) ∧
    (flag .tableValid s = true → flag .accValid s = true → rangeEn s.ctrl = true → s.imgLow.toNat ≤ s.imgHigh.toNat →
      d.toNat < s.rstart.toNat → ∃ t, execAll [.wrRend d, .foldRange] s = .next t ∧ t.acc = s.acc ∧ t.image = s.image) ∧
    (s.imgHigh.toNat < d.toNat →
      execAll [.wrImgLow d, .compute] s = .next { s with imgLow := d, status := s.status ||| 0x00000100 } ∧
      (flag .resultValid s = true →
        execAll [.wrImgLow d, .store] s = .next { s with imgLow := d, status := s.status ||| 0x00000100 }) ∧
      (flag .tableValid s = true → flag .accValid s = true →
        execAll [.wrImgLow d, .foldRange] s = .next { s with imgLow := d, status := s.status ||| 0x00000100 }))

/-- R110: a write of ACC, RESULT or TBL_DATA is ignored. -/
def Obligations.ReadOnlyWritesAreIgnored : Prop :=
  ∀ (s : State) (d : Word),
    exec (.wrAcc d) s = .next s ∧ exec (.wrResult d) s = .next s ∧ exec (.wrTblData d) s = .next s

/-- R111: a write of STATUS clears exactly the bits 4 to 8 whose data bit is 1. -/
def Obligations.StatusWriteClearsNamedStickyBits : Prop :=
  (∀ (s : State) (d : Word), ∃ v : Word,
    exec (.wrStatus d) s = .next { s with status := v } ∧
      ∀ i, v.getLsbD i = (s.status.getLsbD i && !(d.getLsbD i && decide (4 ≤ i ∧ i ≤ 8)))) ∧
  (∀ s : State, exec (.wrStatus 0) s = .next s) ∧
  ∀ s : State, s.status = 0x00000026 → exec (.wrStatus 0xFFFFFFFF) s = .next { s with status := 0x00000006 }

/-- R114: a write of TBL_IDX keeps bits [7:0] of the data, and the register reads back as those 8 bits. -/
def Obligations.TblIdxWriteKeepsEightBits : Prop :=
  (∀ (s : State) (d : Word), exec (.wrTblIdx d) s = .next { s with tblIdx := d.extractLsb' 0 8 }) ∧
  ∀ s : State, exec (.wrTblIdx 0x1FF) s = .next { s with tblIdx := 0xFF } ∧
    ∃ t, execAll [.wrTblIdx 0x80, .rdTblIdx] s = .next t ∧ t.readData = some 0x00000080

/-- R112: a write of CMD executes the command its word decodes to, within the access; NOP, BUILD, START and FOLD so written
complete with their own effects, and the invalid word 0x00000008 sets ERR_CMD and nothing else. -/
def Obligations.WriteOfCmdExecutesTheCommand : Prop :=
  (∀ (w : Word) (c : Command) (s : State), decodeCommand w = .ok c → exec (.wrCmd w) s = exec c.toInstr s) ∧
  (∀ s : State, exec (.wrCmd 0x00000000) s = .next s) ∧
  (∀ (s : State) (w : CrcWidth), crcWidth s.ctrl = some w →
    (∃ tbl, exec (.wrCmd 0x00000001) s = .next { s with tbl := tbl, status := s.status ||| 0x00000002 } ∧
      ∀ i, tableAt tbl i = tblEntry w (refin s.ctrl) s.poly i) ∧
    (∃ v, exec (.wrCmd 0x00000002) s =
      .next { s with acc := v, status := (s.status ||| 0x00000004) &&& 0xFFFFFFF7 } ∧ v = startValue w s) ∧
    (flag .tableValid s = true → flag .accValid s = true →
      exec (.wrCmd 0x00003103) s = .next { s with acc := crcFold w (refin s.ctrl) s.tbl s.acc 0x31 })) ∧
  ∀ s : State, exec (.wrCmd 0x00000008) s = .next { s with status := s.status ||| 0x00000020 }

/-! The commands -/

/-- R200: NOP does nothing, even with WIDTH = 3; OP 0 with another bit set is not NOP but invalid. -/
def Obligations.NopChangesNothing : Prop :=
  (∀ s : State, exec .nop s = .next s) ∧
  ∀ w : Word, w.extractLsb' 0 8 = 0 → w ≠ 0 → ∃ e, decodeCommand w = .error e

/-- R140: BUILD fills the table from POLY, WIDTH and REFIN and sets TABLE_VALID (bit 1) and nothing else; it is rejected with
ERR_CFG (bit 6) when WIDTH = 3; rebuilding a valid table changes nothing. -/
def Obligations.BuildFillsTheTable : Prop :=
  (∀ (s : State) (w : CrcWidth), crcWidth s.ctrl = some w →
    ∃ tbl, exec .build s = .next { s with tbl := tbl, status := s.status ||| 0x00000002 } ∧
      ∀ i, tableAt tbl i = tblEntry w (refin s.ctrl) s.poly i) ∧
  (∀ s : State, crcWidth s.ctrl = none → exec .build s = .next { s with status := s.status ||| 0x00000040 }) ∧
  (∀ s : State, s.Inv → flag .tableValid s = true → exec .build s = .next s) ∧
  tblEntry .w16 false 0x00001021 0x01 = 0x00001021 ∧ tblEntry .w16 false 0x00001021 0x80 = 0x00009188

/-- R160: START loads INIT, masked to W bits, as it is in the normal variant and with its W bits reversed in the reflected one,
sets ACC_VALID (bit 2) and clears RESULT_VALID (bit 3), and nothing else; ERR_CFG (bit 6) when WIDTH = 3. -/
def Obligations.StartLoadsTheInitialValue : Prop :=
  (∀ (s : State) (w : CrcWidth), crcWidth s.ctrl = some w →
    ∃ v : Word, exec .start s = .next { s with acc := v, status := (s.status ||| 0x00000004) &&& 0xFFFFFFF7 } ∧
      (refin s.ctrl = false → v.toNat = s.init.toNat % 2 ^ widthBits w) ∧
      (refin s.ctrl = true → v.toNat < 2 ^ widthBits w ∧
        ∀ i < widthBits w, v.getLsbD (widthBits w - 1 - i) = s.init.getLsbD i)) ∧
  ∀ s : State, crcWidth s.ctrl = none → exec .start s = .next { s with status := s.status ||| 0x00000040 }

/-- R161, R162: FOLD replaces ACC by the shifted accumulator XORed with the table entry its byte selects, and nothing else; at
W = 8 that is the entry of ACC XOR b; with a zero table the byte is dropped; the two rejections leave ACC alone. -/
def Obligations.FoldUpdatesTheAccumulator : Prop :=
  ∀ (s : State) (b : Byte),
    (∀ w, crcWidth s.ctrl = some w → flag .tableValid s = true → flag .accValid s = true →
      ∃ v, exec (.fold b) s = .next { s with acc := v } ∧
        (refin s.ctrl = false →
          v = ((s.acc <<< 8) &&& widthMask w) ^^^
            tableAt s.tbl (((s.acc >>> (widthBits w - 8)) ^^^ b.setWidth 32).extractLsb' 0 8)) ∧
        (refin s.ctrl = true →
          v = (s.acc >>> 8) ^^^ tableAt s.tbl ((s.acc ^^^ b.setWidth 32).extractLsb' 0 8)) ∧
        (w = .w8 → s.acc.toNat < 256 → v = tableAt s.tbl (s.acc.extractLsb' 0 8 ^^^ b)) ∧
        ((∀ i, tableAt s.tbl i = 0) → v = if refin s.ctrl then s.acc >>> 8 else (s.acc <<< 8) &&& widthMask w)) ∧
    (crcWidth s.ctrl = none → exec (.fold b) s = .next { s with status := s.status ||| 0x00000040 }) ∧
    (crcWidth s.ctrl ≠ none → flag .tableValid s = false ∨ flag .accValid s = false →
      exec (.fold b) s = .next { s with status := s.status ||| 0x00000080 })

/-- R180: FINAL sets RESULT to (ACC XOR XOROUT) AND mask_W and RESULT_VALID (bit 3) and changes nothing else; it needs no valid
table; the two rejections leave RESULT alone. -/
def Obligations.FinalMasksTheXoredAccumulator : Prop :=
  ∀ s : State,
    (∀ w, crcWidth s.ctrl = some w → flag .accValid s = true →
      ∃ v : Word, exec .final s = .next { s with result := v, status := s.status ||| 0x00000008 } ∧
        v.toNat = (s.acc ^^^ s.xorout).toNat % 2 ^ widthBits w) ∧
    (crcWidth s.ctrl = none → exec .final s = .next { s with status := s.status ||| 0x00000040 }) ∧
    (crcWidth s.ctrl ≠ none → flag .accValid s = false →
      exec .final s = .next { s with status := s.status ||| 0x00000080 })

/-- R163: FOLDRANGE folds the image bytes of the effective range into ACC in ascending order, sets CLIPPED (bit 4) when an
endpoint was clipped, and changes nothing else; its rejections, in their order, change their bit alone. -/
def Obligations.FoldRangeFoldsTheRange : Prop :=
  ∀ s : State,
    (∀ w bytes, crcWidth s.ctrl = some w → flag .tableValid s = true → flag .accValid s = true →
      s.imgLow.toNat ≤ s.imgHigh.toNat → rangeBytes s bytes →
      exec .foldRange s = .next { s with
        acc := bytes.foldl (crcFold w (refin s.ctrl) s.tbl) s.acc
        status := if rangeClipped s then s.status ||| 0x00000010 else s.status }) ∧
    (crcWidth s.ctrl = none → exec .foldRange s = .next { s with status := s.status ||| 0x00000040 }) ∧
    (crcWidth s.ctrl ≠ none → flag .tableValid s = false ∨ flag .accValid s = false →
      exec .foldRange s = .next { s with status := s.status ||| 0x00000080 }) ∧
    (crcWidth s.ctrl ≠ none → flag .tableValid s = true → flag .accValid s = true →
      s.imgHigh.toNat < s.imgLow.toNat → exec .foldRange s = .next { s with status := s.status ||| 0x00000100 })

/-- R165: FOLDRANGE leaves ACC exactly as the FOLD commands of the range's bytes would, one by one. -/
def Obligations.FoldRangeEqualsItsFolds : Prop :=
  ∀ (s : State) (w : CrcWidth) (bytes : List Byte), crcWidth s.ctrl = some w → flag .tableValid s = true →
    flag .accValid s = true → s.imgLow.toNat ≤ s.imgHigh.toNat → rangeBytes s bytes →
      ∃ t u, exec .foldRange s = .next t ∧ execAll (bytes.map .fold) s = .next u ∧ t.acc = u.acc ∧
        t = { u with status := t.status }

/-- R164: the effective range is the requested one cut to the image; every address in it lies in the window; the default range
is never clipped; a range wholly above or below the image comes out empty with CLIPPED due; a reversed range is empty. -/
def Obligations.EffectiveRangeStaysInTheImage : Prop :=
  ∀ s : State,
    (effStart s = max (if s.ctrl.getLsbD 5 then s.rstart.toNat else s.imgLow.toNat) s.imgLow.toNat) ∧
    (effEnd s = min (if s.ctrl.getLsbD 5 then s.rend.toNat else s.imgHigh.toNat) s.imgHigh.toNat) ∧
    (∀ a, effStart s ≤ a → a ≤ effEnd s → s.imgLow.toNat ≤ a ∧ a ≤ s.imgHigh.toNat) ∧
    (s.ctrl.getLsbD 5 = false → rangeClipped s = false) ∧
    (s.ctrl.getLsbD 5 = true → s.imgHigh.toNat < s.rstart.toNat → s.rstart.toNat ≤ s.rend.toNat →
      rangeLength s = 0 ∧ rangeClipped s = true) ∧
    (s.ctrl.getLsbD 5 = true → s.rend.toNat < s.imgLow.toNat → s.rstart.toNat ≤ s.rend.toNat →
      rangeLength s = 0 ∧ rangeClipped s = true) ∧
    (s.ctrl.getLsbD 5 = true → s.rend.toNat < s.rstart.toNat → rangeLength s = 0) ∧
    (rangeClipped s = true ↔
      effStart s ≠ (if s.ctrl.getLsbD 5 then s.rstart.toNat else s.imgLow.toNat) ∨
        effEnd s ≠ (if s.ctrl.getLsbD 5 then s.rend.toNat else s.imgHigh.toNat))

/-- R181, R182: STORE writes byte k of RESULT at TARGET + k, least significant first when ENDIAN = 0 and most significant first
when it is 1, only when the whole field lies in the window; it changes no other byte and no register. Its rejections write
nothing. The addresses are integers, so a field past 0xFFFFFFFF is rejected. -/
def Obligations.StoreWritesTheResultField : Prop :=
  ∀ s : State,
    (∀ w, crcWidth s.ctrl = some w → flag .resultValid s = true →
      s.imgLow.toNat ≤ s.imgHigh.toNat → s.imgLow.toNat ≤ s.target.toNat →
      s.target.toNat + widthBytes w - 1 ≤ s.imgHigh.toNat →
      (∀ k < widthBytes w, (s.image.read (s.target.toNat + k)).isSome = true) →
      ∃ m, exec .store s = .next { s with image := m } ∧
        (∀ k < widthBytes w, m.read (s.target.toNat + k) = some (
          if s.ctrl.getLsbD 4 then s.result.extractLsb' (8 * (widthBytes w - 1 - k)) 8
          else s.result.extractLsb' (8 * k) 8)) ∧
        (∀ k < widthBytes w, s.imgLow.toNat ≤ s.target.toNat + k ∧ s.target.toNat + k ≤ s.imgHigh.toNat) ∧
        ∀ a, ¬ inTargetField w s a → m.read a = s.image.read a) ∧
    (crcWidth s.ctrl = none → exec .store s = .next { s with status := s.status ||| 0x00000040 }) ∧
    (crcWidth s.ctrl ≠ none → flag .resultValid s = false →
      exec .store s = .next { s with status := s.status ||| 0x00000080 }) ∧
    ∀ w, crcWidth s.ctrl = some w → flag .resultValid s = true →
      (s.imgHigh.toNat < s.imgLow.toNat ∨ s.target.toNat < s.imgLow.toNat ∨
        s.imgHigh.toNat < s.target.toNat + widthBytes w - 1) →
      exec .store s = .next { s with status := s.status ||| 0x00000100 }

/-- R201: with every check passed COMPUTE is BUILD, START, FOLDRANGE, FINAL and STORE in turn, and leaves the three validity
bits 1; with a check failed it changes its error bit alone. -/
def Obligations.ComputeIsItsFiveCommands : Prop :=
  ∀ s : State,
    (∀ w, crcWidth s.ctrl = some w → s.imgLow.toNat ≤ s.imgHigh.toNat → s.imgLow.toNat ≤ s.target.toNat →
      s.target.toNat + widthBytes w - 1 ≤ s.imgHigh.toNat →
      exec .compute s = execAll [.build, .start, .foldRange, .final, .store] s ∧
      (windowOwned s → ∃ t, exec .compute s = .next t ∧
        flag .tableValid t = true ∧ flag .accValid t = true ∧ flag .resultValid t = true ∧
        (rangeClipped s = true → flag .clipped t = true))) ∧
    (crcWidth s.ctrl = none → exec .compute s = .next { s with status := s.status ||| 0x00000040 }) ∧
    ∀ w, crcWidth s.ctrl = some w →
      (s.imgHigh.toNat < s.imgLow.toNat ∨ s.target.toNat < s.imgLow.toNat ∨
        s.imgHigh.toNat < s.target.toNat + widthBytes w - 1) →
      exec .compute s = .next { s with status := s.status ||| 0x00000100 }

/-- R201, R202: what COMPUTE leaves in every field. RESULT is the CRC of the range's bytes as they stood when COMPUTE was
issued, even where the target field overlaps the range; only TBL, ACC, RESULT, STATUS and the target field change. -/
def Obligations.ComputeStoresTheCrcOfTheRangeAsIssued : Prop :=
  ∀ (s : State) (w : CrcWidth) (bytes : List Byte), crcWidth s.ctrl = some w → s.imgLow.toNat ≤ s.imgHigh.toNat →
    s.imgLow.toNat ≤ s.target.toNat → s.target.toNat + widthBytes w - 1 ≤ s.imgHigh.toNat → windowOwned s →
    rangeBytes s bytes →
    ∃ tbl acc m, exec .compute s = .next { s with
        tbl := tbl
        acc := acc
        result := (acc ^^^ s.xorout) &&& widthMask w
        status := s.status ||| (if rangeClipped s then 0x0000001E else 0x0000000E)
        image := m } ∧
      (∀ i, tableAt tbl i = tblEntry w (refin s.ctrl) s.poly i) ∧
      acc = bytes.foldl (crcFold w (refin s.ctrl) tbl) (startValue w s) ∧
      (∀ k < widthBytes w, m.read (s.target.toNat + k) =
        some (storeByte ((acc ^^^ s.xorout) &&& widthMask w) (widthBytes w) (endianBig s.ctrl) k)) ∧
      ∀ a, ¬ inTargetField w s a → m.read a = s.image.read a

/-- R183: when the target field is disjoint from the effective range, a second COMPUTE changes nothing. -/
def Obligations.ComputeIsIdempotentOffTheRange : Prop :=
  ∀ (s t : State) (w : CrcWidth), s.image.wf → crcWidth s.ctrl = some w → exec .compute s = .next t →
    (∀ a, effStart s ≤ a → a ≤ effEnd s → ¬ inTargetField w s a) → exec .compute t = .next t

/-! Errors -/

/-- R223: with WIDTH = 3 every command but NOP sets ERR_CFG (bit 6) and changes nothing else; NOP never does. -/
def Obligations.ReservedWidthRejectsEveryCommandButNop : Prop :=
  ∀ s : State, s.ctrl.extractLsb' 0 2 = 3 →
    (∀ c : Command, c ≠ .nop → exec c.toInstr s = .next { s with status := s.status ||| 0x00000040 }) ∧
    exec .nop s = .next s

/-- R224: ERR_SEQ (bit 7) in its three cases, whatever the image bounds; COMPUTE never raises it. -/
def Obligations.InvalidInputRaisesErrSeq : Prop :=
  ∀ s : State,
    (s.ctrl.extractLsb' 0 2 ≠ 3 →
      (∀ b, flag .tableValid s = false ∨ flag .accValid s = false →
        exec (.fold b) s = .next { s with status := s.status ||| 0x00000080 } ∧
        exec .foldRange s = .next { s with status := s.status ||| 0x00000080 }) ∧
      (flag .accValid s = false → exec .final s = .next { s with status := s.status ||| 0x00000080 }) ∧
      (flag .resultValid s = false → exec .store s = .next { s with status := s.status ||| 0x00000080 })) ∧
    ∀ t, exec .compute s = .next t → flag .errSeq t = flag .errSeq s

/-- R221, R228: a command is rejected exactly when one of its checks fails, with the bit of the first that fails and no other
effect; a command that is not rejected sets no error bit. -/
def Obligations.RejectedCommandSetsOnlyItsFirstError : Prop :=
  ∀ (c : Command) (s : State),
    (∀ e, firstError c s = some e → exec c.toInstr s = .next (setFlag e s)) ∧
    (firstError c s = none → ∀ t, exec c.toInstr s = .next t →
      flag .errCmd t = flag .errCmd s ∧ flag .errCfg t = flag .errCfg s ∧
        flag .errSeq t = flag .errSeq s ∧ flag .errAddr t = flag .errAddr s)

/-- R39: a sticky bit once set stays set through every step, until the host writes 1 to it or the block is reset. -/
def Obligations.StickyBitStaysUntilWrittenOrReset : Prop :=
  ∀ (s t : State) (f : StatusBit), f ∈ [.clipped, .errCmd, .errCfg, .errSeq, .errAddr] →
    flag f s = true → step s = .next t →
      flag f t = true ∨ (∃ rest, s.pending = .reset :: rest) ∨
        ∃ d rest, s.pending = lineWr .status d :: rest ∧ d.getLsbD (statusIndex f) = true

/-! What an instruction cannot touch -/

/-- R40: only BUILD, and COMPUTE through it, writes the table; invalidation leaves the entries unchanged. -/
def Obligations.OnlyBuildWritesTheTable : Prop :=
  ∀ (i : Instr) (s t : State), exec i s = .next t →
    t.tbl = s.tbl ∨ i = .build ∨ i = .compute ∨ i = .wrCmd 0x00000001 ∨ i = .wrCmd 0x00000007

/-- R62, R182: the engine changes no image byte but those of the target field, inside the window, and only in STORE and
COMPUTE. -/
def Obligations.EngineWritesOnlyTheTargetField : Prop :=
  ∀ (i : Instr) (s t : State) (a : Nat), exec i s = .next t → t.image.read a ≠ s.image.read a →
    (i = .store ∨ i = .compute ∨ i = .wrCmd 0x00000006 ∨ i = .wrCmd 0x00000007) ∧
      ∃ w, crcWidth s.ctrl = some w ∧ inTargetField w s a ∧ s.imgLow.toNat ≤ a ∧ a ≤ s.imgHigh.toNat

/-- The register writes and the commands: a configuration register changes only by the host's write of that register, and what a
write of CTRL or POLY touches besides is at most the three validity bits (STATUS bits 1 to 3). No instruction touches the
model's own list, count of draws and image data (log entries 1, 5 and 6). -/
def Obligations.CommandsLeaveTheConfiguration : Prop :=
  (∀ (s t : State) (d : Word), exec (.wrCtrl d) s = .next t →
    t = { s with ctrl := t.ctrl, status := t.status } ∧ t.status &&& 0xFFFFFFF1 = s.status &&& 0xFFFFFFF1) ∧
  (∀ (s t : State) (d : Word), exec (.wrPoly d) s = .next t →
    t = { s with poly := t.poly, status := t.status } ∧ t.status &&& 0xFFFFFFF1 = s.status &&& 0xFFFFFFF1) ∧
  ∀ (i : Instr) (s t : State), exec i s = .next t →
    (t.ctrl = s.ctrl ∨ ∃ d, i = .wrCtrl d) ∧ (t.poly = s.poly ∨ ∃ d, i = .wrPoly d) ∧
    (t.init = s.init ∨ ∃ d, i = .wrInit d) ∧ (t.xorout = s.xorout ∨ ∃ d, i = .wrXorout d) ∧
    (t.rstart = s.rstart ∨ ∃ d, i = .wrRstart d) ∧ (t.rend = s.rend ∨ ∃ d, i = .wrRend d) ∧
    (t.target = s.target ∨ ∃ d, i = .wrTarget d) ∧ (t.imgLow = s.imgLow ∨ ∃ d, i = .wrImgLow d) ∧
    (t.imgHigh = s.imgHigh ∨ ∃ d, i = .wrImgHigh d) ∧ (t.tblIdx = s.tblIdx ∨ ∃ d, i = .wrTblIdx d) ∧
    t.pending = s.pending ∧ t.draws = s.draws ∧ t.imageData = s.imageData

/-- R255: under the launch premise that the window is the host's buffer, every instruction completes: none faults and none is
refused; and whatever the premise, an instruction stops only at an address outside the buffer. -/
def Obligations.EveryInstructionCompletesInsideTheBuffer : Prop :=
  (∀ (i : Instr) (s : State), windowOwned s → ∃ t, exec i s = .next t) ∧
  ∀ (i : Instr) (s : State), (∃ t, exec i s = .next t) ∨
    (exec i s = .fault .outsideBuffer ∧
      ∃ a, s.imgLow.toNat ≤ a ∧ a ≤ s.imgHigh.toNat ∧ s.image.read a = none)

/-- R27: REFOUT is stored and read back, and no command's effect depends on it. -/
def Obligations.RefoutHasNoEffect : Prop :=
  (∀ (s : State) (d : Word), ∃ t v, execAll [.wrCtrl d, .rdCtrl] s = .next t ∧ t.readData = some v ∧
    v.getLsbD 3 = d.getLsbD 3) ∧
  ∀ (c : Command) (s : State),
    exec c.toInstr (flipCtrl 0x00000008 s) = mapNext (flipCtrl 0x00000008) (exec c.toInstr s)

/-- R28, R66: ENDIAN governs only the result write: no other command's effect depends on it. -/
def Obligations.EndianGovernsOnlyTheResultWrite : Prop :=
  ∀ (c : Command) (s : State), c ≠ .store → c ≠ .compute →
    exec c.toInstr (flipCtrl 0x00000010 s) = mapNext (flipCtrl 0x00000010) (exec c.toInstr s)

/-- R262: a write of CTRL that changes WIDTH or REFIN clears the three validity bits and keeps ACC and RESULT. Whatever
instructions follow, FOLD and FOLDRANGE fail with ERR_SEQ (bit 7) and change nothing else until BUILD and START are run again,
FINAL until START is, and STORE until FINAL is; COMPUTE counts as each of them. A write of POLY does so to FOLD and FOLDRANGE
until BUILD. Once redone, none of them fails with ERR_SEQ. That WIDTH = 3 gives ERR_CFG instead is the model's reading (log
entry 15). -/
def Obligations.ConfigurationChangeInvalidates : Prop :=
  ∀ (s t : State) (d : Word) (b : Byte),
    (exec (.wrCtrl d) s = .next t → t.ctrl.extractLsb' 0 3 ≠ s.ctrl.extractLsb' 0 3 →
      flag .tableValid t = false ∧ flag .accValid t = false ∧ flag .resultValid t = false ∧
      t.acc = s.acc ∧ t.result = s.result ∧
      (∀ (is : List Instr) (u : State), execAll is t = .next u → u.ctrl.extractLsb' 0 2 ≠ 3 →
        ((∀ i ∈ is, ¬ redoes .build i) ∨ (∀ i ∈ is, ¬ redoes .start i) →
          ∀ j ∈ [Instr.fold b, .foldRange], exec j u = .next { u with status := u.status ||| 0x00000080 }) ∧
        ((∀ i ∈ is, ¬ redoes .start i) → exec .final u = .next { u with status := u.status ||| 0x00000080 }) ∧
        ((∀ i ∈ is, ¬ redoes .final i) → exec .store u = .next { u with status := u.status ||| 0x00000080 })) ∧
      (t.ctrl.extractLsb' 0 2 ≠ 3 → ∃ v, execAll [.build, .start, .final] t = .next v ∧
        ∀ j ∈ [Instr.fold b, .foldRange, .final, .store], ∀ x, exec j v = .next x → flag .errSeq x = flag .errSeq v)) ∧
    (exec (.wrPoly d) s = .next t →
      flag .tableValid t = false ∧ t.acc = s.acc ∧ t.result = s.result ∧
      (∀ (is : List Instr) (u : State), execAll is t = .next u → u.ctrl.extractLsb' 0 2 ≠ 3 →
        (∀ i ∈ is, ¬ redoes .build i) →
          ∀ j ∈ [Instr.fold b, .foldRange], exec j u = .next { u with status := u.status ||| 0x00000080 }) ∧
      (t.ctrl.extractLsb' 0 2 ≠ 3 → flag .accValid s = true → ∃ v, exec .build t = .next v ∧
        ∀ j ∈ [Instr.fold b, .foldRange], ∀ x, exec j v = .next x → flag .errSeq x = flag .errSeq v))

/-- R90: the expansions of the six pseudo-instructions, run by the machine one line a step (log entry 1), do what they name.
`cfg` sets the fields of CTRL; `params`, `image` and `range` set their registers, `params` clearing TABLE_VALID with POLY;
`folds` folds its bytes in order (given as bytes, log entry 16); `clrstat` clears every sticky bit. -/
def Obligations.PseudoInstructionsDoWhatTheyName : Prop :=
  ∀ (s : State) (rest : List HostAction), flag .busy s = false →
    (∀ (w : CrcWidth) (rin rout big ren : Bool), s.pending = pseudoCfg w rin rout big ren ++ rest →
      ∃ t, step s = .next t ∧ t = { s with pending := rest, ctrl := t.ctrl, status := t.status } ∧
        crcWidth t.ctrl = some w ∧ refin t.ctrl = rin ∧ refout t.ctrl = rout ∧
        endianBig t.ctrl = big ∧ rangeEn t.ctrl = ren) ∧
    (∀ poly init xorout : Word, s.pending = pseudoParams poly init xorout ++ rest →
      runSteps 3 s = .next { s with
        pending := rest, poly := poly, init := init, xorout := xorout, status := s.status &&& 0xFFFFFFFD }) ∧
    (∀ lo hi : Word, s.pending = pseudoImage lo hi ++ rest →
      runSteps 2 s = .next { s with pending := rest, imgLow := lo, imgHigh := hi }) ∧
    (∀ a e : Word, s.pending = pseudoRange a e ++ rest →
      runSteps 2 s = .next { s with pending := rest, rstart := a, rend := e }) ∧
    (∀ text : List Byte, s.pending = pseudoFolds text ++ rest →
      runSteps text.length s = execAll (text.map .fold) { s with pending := rest } ∧
      ∀ w, crcWidth s.ctrl = some w → flag .tableValid s = true → flag .accValid s = true →
        runSteps text.length s = .next { s with
          pending := rest, acc := text.foldl (crcFold w (refin s.ctrl) s.tbl) s.acc }) ∧
    (s.pending = pseudoClrstat ++ rest →
      ∃ t, step s = .next t ∧ t = { s with pending := rest, status := t.status } ∧
        (∀ f ∈ [StatusBit.clipped, .errCmd, .errCfg, .errSeq, .errAddr], flag f t = false) ∧
        ∀ f ∈ [StatusBit.tableValid, .accValid, .resultValid], flag f t = flag f s)

/-! The laws of the datapath -/

/-- R142: every entry has W bits, entry 0 is 0, a zero polynomial gives a zero table, and only the low W bits of POLY matter. -/
def Obligations.TableEntriesAreWidthBounded : Prop :=
  ∀ (w : CrcWidth) (ref : Bool) (poly : Word) (i : Byte),
    (tblEntry w ref poly i).toNat < 2 ^ widthBits w ∧
    tblEntry w ref poly 0 = 0 ∧
    (poly &&& widthMask w = 0 → tblEntry w ref poly i = 0) ∧
    ∀ poly', poly' &&& widthMask w = poly &&& widthMask w → tblEntry w ref poly' i = tblEntry w ref poly i

/-- R143: the table is linear over GF(2) in its index. -/
def Obligations.TableIsLinear : Prop :=
  ∀ (w : CrcWidth) (ref : Bool) (poly : Word) (a b : Byte),
    tblEntry w ref poly (a ^^^ b) = tblEntry w ref poly a ^^^ tblEntry w ref poly b

/-- R144: the entry at 0x01 in the normal variant is the masked polynomial; the entry at 0x80 in the reflected variant is the
reflected one. -/
def Obligations.TableHoldsThePolynomial : Prop :=
  ∀ (w : CrcWidth) (poly : Word),
    tblEntry w false poly 0x01 = poly &&& widthMask w ∧
    tblEntry w true poly 0x80 = reflect w (poly &&& widthMask w)

/-- R166: START, folds of the message's bytes and FINAL, under a table that BUILD has made, leave in RESULT the CRC that the
bit-at-a-time reference computes with refout = refin = REFIN, whatever REFOUT is. -/
def Obligations.EngineComputesTheReferenceCrc : Prop :=
  ∀ (s : State) (w : CrcWidth) (msg : List Byte), crcWidth s.ctrl = some w →
    ∃ t, execAll ([.build, .start] ++ msg.map .fold ++ [.final]) s = .next t ∧
      t.result = (Reference.crc (s.poly.setWidth (widthBits w)) (s.init.setWidth (widthBits w))
        (s.xorout.setWidth (widthBits w)) (refin s.ctrl) (refin s.ctrl) msg).setWidth 32
end

