-- ==== Sys2Proof/Laws/Crc.lean ====
section
/-! SUPPORT. The datapath: lookups in a table built from a function, the masks as numbers, and one step of each loop. -/

namespace Sys2Proof.Machine

theorem listFrom_getElem (f : Nat → Word) :
    ∀ (n i k : Nat) (h : k < (listFrom f n i).length), (listFrom f n i)[k] = f (i + k)
  | 0, _, k, h => by simp [listFrom] at h
  | n + 1, i, 0, _ => rfl
  | n + 1, i, k + 1, h => by
    have := listFrom_getElem f n (i + 1) k (by simpa [listFrom] using h)
    simpa [listFrom, Nat.add_assoc, Nat.add_comm 1 k] using this

theorem vectorOfListFrom_getElem (f : Nat → Word) (n k : Nat) (h : k < n) :
    (⟨⟨listFrom f n 0⟩, listFrom_length f n 0⟩ : Vector Word n)[k] = f k := by
  have := listFrom_getElem f n 0 k (by rw [listFrom_length]; exact h)
  simpa using this

/-- A lookup in a table gives the entry of its byte (R40). -/
@[simp] theorem tableAt_tableOf (f : Byte → Word) (i : Byte) : tableAt (tableOf f) i = f i := by
  unfold tableAt tableOf
  rw [vectorOfListFrom_getElem]
  simp

@[simp] theorem widthBits_w8 : widthBits .w8 = 8 := rfl
@[simp] theorem widthBits_w16 : widthBits .w16 = 16 := rfl
@[simp] theorem widthBits_w32 : widthBits .w32 = 32 := rfl
@[simp] theorem widthBytes_w8 : widthBytes .w8 = 1 := rfl
@[simp] theorem widthBytes_w16 : widthBytes .w16 = 2 := rfl
@[simp] theorem widthBytes_w32 : widthBytes .w32 = 4 := rfl
theorem widthMask_w8 : widthMask .w8 = 0x000000FF := rfl
theorem widthMask_w16 : widthMask .w16 = 0x0000FFFF := rfl
theorem widthMask_w32 : widthMask .w32 = 0xFFFFFFFF := rfl

theorem widthBytes_pos (w : CrcWidth) : 0 < widthBytes w := by cases w <;> decide

/-- The bits of the width mask. -/
theorem getLsbD_widthMask (w : CrcWidth) (i : Nat) : (widthMask w).getLsbD i = decide (i < widthBits w) := by
  by_cases h : i < 32
  · cases w <;> (revert i; decide)
  · have : ¬ i < widthBits w := by cases w <;> simp <;> omega
    rw [BitVec.getLsbD_of_ge _ _ (by omega)]; simp [this]

/-- The bits of a reflected value (R10). -/
theorem getLsbD_reflect (w : CrcWidth) (v : Word) (i : Nat) :
    (reflect w v).getLsbD i = (decide (i < widthBits w) && v.getLsbD (widthBits w - 1 - i)) := by
  have hw : widthBits w ≤ 32 := by cases w <;> decide
  simp only [reflect, BitVec.getLsbD_setWidth, BitVec.getLsbD_reverse, BitVec.getMsbD_eq_getLsbD]
  by_cases h : i < widthBits w
  · have : i < 32 := by omega
    have e1 : widthBits w - 1 - i < widthBits w := by omega
    simp [h, this, e1]
  · simp [h]

@[simp] theorem times_zero (f : Word → Word) (c : Word) : times 0 f c = c := rfl
@[simp] theorem times_succ (n : Nat) (f : Word → Word) (c : Word) : times (n + 1) f c = times n f (f c) := rfl

end Sys2Proof.Machine
end

