-- ==== Sys2Proof/Laws/Decode.lean ====
section
/-! SUPPORT. The register map read both ways, and the place of a transaction on the platform's bus. -/

namespace Sys2Proof

/-- The register at a register's own offset is that register (R23). -/
@[simp] theorem Reg.atOffset_offset (r : Reg) : Reg.atOffset r.offset = some r := by cases r <;> rfl

/-- A mapped offset is the offset of the register it maps to (R23). -/
theorem Reg.offset_of_atOffset {o : Nat} {r : Reg} (h : Reg.atOffset o = some r) : r.offset = o := by
  unfold Reg.atOffset at h
  split at h <;> cases h <;> rfl

/-- Every register's offset is aligned and at most 0x38 (R23, R88). -/
theorem Reg.offset_mapped (r : Reg) : r.offset % 4 = 0 ∧ r.offset ≤ 0x38 := by cases r <;> decide

/-- The Read of a register is well-formed (R88). -/
theorem busRead_wellFormed (r : Reg) : (busRead r).wellFormed := ⟨rfl, Reg.offset_mapped r⟩

/-- The Write of a register is well-formed (R88). -/
theorem busWrite_wellFormed (r : Reg) (d : Word) : (busWrite r d).wellFormed := ⟨rfl, Reg.offset_mapped r⟩

@[simp] theorem decode_busRead (r : Reg) : decode (busRead r) = .ok (readOf r) := by
  simp [decode, busRead, decodeBus, (Reg.offset_mapped r).1]

@[simp] theorem decode_busWrite (r : Reg) (d : Word) : decode (busWrite r d) = .ok (writeOf d r) := by
  simp [decode, busWrite, decodeBus, (Reg.offset_mapped r).1]

/-- A platform access at the address where a transaction lies is that transaction, at every placement of the block (R23). -/
theorem Transaction.ofPlatform_platformAddress (t : Transaction) :
    Transaction.ofPlatform t.dir t.platformAddress t.size t.data = some t := by
  simp [Transaction.ofPlatform, Transaction.platformAddress]

end Sys2Proof
end

