-- ==== Sys2Proof/Laws/State.lean ====
section
/-! SUPPORT. One lemma per field of State for each named update of Machine/Flags.lean and Machine/Ops.lean: what the field holds
after it. No later proof unfolds a record update. -/

namespace Sys2Proof.Machine

/-! `setFlag` -/

@[simp] theorem setFlag_ctrl (f : StatusBit) (s : State) : (setFlag f s).ctrl = s.ctrl := rfl
@[simp] theorem setFlag_poly (f : StatusBit) (s : State) : (setFlag f s).poly = s.poly := rfl
@[simp] theorem setFlag_init (f : StatusBit) (s : State) : (setFlag f s).init = s.init := rfl
@[simp] theorem setFlag_xorout (f : StatusBit) (s : State) : (setFlag f s).xorout = s.xorout := rfl
@[simp] theorem setFlag_acc (f : StatusBit) (s : State) : (setFlag f s).acc = s.acc := rfl
@[simp] theorem setFlag_result (f : StatusBit) (s : State) : (setFlag f s).result = s.result := rfl
@[simp] theorem setFlag_status (f : StatusBit) (s : State) : (setFlag f s).status = s.status ||| statusWord f := rfl
@[simp] theorem setFlag_rstart (f : StatusBit) (s : State) : (setFlag f s).rstart = s.rstart := rfl
@[simp] theorem setFlag_rend (f : StatusBit) (s : State) : (setFlag f s).rend = s.rend := rfl
@[simp] theorem setFlag_target (f : StatusBit) (s : State) : (setFlag f s).target = s.target := rfl
@[simp] theorem setFlag_imgLow (f : StatusBit) (s : State) : (setFlag f s).imgLow = s.imgLow := rfl
@[simp] theorem setFlag_imgHigh (f : StatusBit) (s : State) : (setFlag f s).imgHigh = s.imgHigh := rfl
@[simp] theorem setFlag_tblIdx (f : StatusBit) (s : State) : (setFlag f s).tblIdx = s.tblIdx := rfl
@[simp] theorem setFlag_tbl (f : StatusBit) (s : State) : (setFlag f s).tbl = s.tbl := rfl
@[simp] theorem setFlag_image (f : StatusBit) (s : State) : (setFlag f s).image = s.image := rfl
@[simp] theorem setFlag_pending (f : StatusBit) (s : State) : (setFlag f s).pending = s.pending := rfl
@[simp] theorem setFlag_readData (f : StatusBit) (s : State) : (setFlag f s).readData = s.readData := rfl
@[simp] theorem setFlag_imageData (f : StatusBit) (s : State) : (setFlag f s).imageData = s.imageData := rfl
@[simp] theorem setFlag_draws (f : StatusBit) (s : State) : (setFlag f s).draws = s.draws := rfl

/-! `clearFlag` -/

@[simp] theorem clearFlag_ctrl (f : StatusBit) (s : State) : (clearFlag f s).ctrl = s.ctrl := rfl
@[simp] theorem clearFlag_poly (f : StatusBit) (s : State) : (clearFlag f s).poly = s.poly := rfl
@[simp] theorem clearFlag_init (f : StatusBit) (s : State) : (clearFlag f s).init = s.init := rfl
@[simp] theorem clearFlag_xorout (f : StatusBit) (s : State) : (clearFlag f s).xorout = s.xorout := rfl
@[simp] theorem clearFlag_acc (f : StatusBit) (s : State) : (clearFlag f s).acc = s.acc := rfl
@[simp] theorem clearFlag_result (f : StatusBit) (s : State) : (clearFlag f s).result = s.result := rfl
@[simp] theorem clearFlag_status (f : StatusBit) (s : State) : (clearFlag f s).status = s.status &&& ~~~statusWord f := rfl
@[simp] theorem clearFlag_rstart (f : StatusBit) (s : State) : (clearFlag f s).rstart = s.rstart := rfl
@[simp] theorem clearFlag_rend (f : StatusBit) (s : State) : (clearFlag f s).rend = s.rend := rfl
@[simp] theorem clearFlag_target (f : StatusBit) (s : State) : (clearFlag f s).target = s.target := rfl
@[simp] theorem clearFlag_imgLow (f : StatusBit) (s : State) : (clearFlag f s).imgLow = s.imgLow := rfl
@[simp] theorem clearFlag_imgHigh (f : StatusBit) (s : State) : (clearFlag f s).imgHigh = s.imgHigh := rfl
@[simp] theorem clearFlag_tblIdx (f : StatusBit) (s : State) : (clearFlag f s).tblIdx = s.tblIdx := rfl
@[simp] theorem clearFlag_tbl (f : StatusBit) (s : State) : (clearFlag f s).tbl = s.tbl := rfl
@[simp] theorem clearFlag_image (f : StatusBit) (s : State) : (clearFlag f s).image = s.image := rfl
@[simp] theorem clearFlag_pending (f : StatusBit) (s : State) : (clearFlag f s).pending = s.pending := rfl
@[simp] theorem clearFlag_readData (f : StatusBit) (s : State) : (clearFlag f s).readData = s.readData := rfl
@[simp] theorem clearFlag_imageData (f : StatusBit) (s : State) : (clearFlag f s).imageData = s.imageData := rfl
@[simp] theorem clearFlag_draws (f : StatusBit) (s : State) : (clearFlag f s).draws = s.draws := rfl

/-! `clearValid` -/

@[simp] theorem clearValid_ctrl (s : State) : (clearValid s).ctrl = s.ctrl := rfl
@[simp] theorem clearValid_poly (s : State) : (clearValid s).poly = s.poly := rfl
@[simp] theorem clearValid_init (s : State) : (clearValid s).init = s.init := rfl
@[simp] theorem clearValid_xorout (s : State) : (clearValid s).xorout = s.xorout := rfl
@[simp] theorem clearValid_acc (s : State) : (clearValid s).acc = s.acc := rfl
@[simp] theorem clearValid_result (s : State) : (clearValid s).result = s.result := rfl
@[simp] theorem clearValid_status (s : State) :
    (clearValid s).status = s.status &&& ~~~statusWord .tableValid &&& ~~~statusWord .accValid &&& ~~~statusWord .resultValid := rfl
@[simp] theorem clearValid_rstart (s : State) : (clearValid s).rstart = s.rstart := rfl
@[simp] theorem clearValid_rend (s : State) : (clearValid s).rend = s.rend := rfl
@[simp] theorem clearValid_target (s : State) : (clearValid s).target = s.target := rfl
@[simp] theorem clearValid_imgLow (s : State) : (clearValid s).imgLow = s.imgLow := rfl
@[simp] theorem clearValid_imgHigh (s : State) : (clearValid s).imgHigh = s.imgHigh := rfl
@[simp] theorem clearValid_tblIdx (s : State) : (clearValid s).tblIdx = s.tblIdx := rfl
@[simp] theorem clearValid_tbl (s : State) : (clearValid s).tbl = s.tbl := rfl
@[simp] theorem clearValid_image (s : State) : (clearValid s).image = s.image := rfl
@[simp] theorem clearValid_pending (s : State) : (clearValid s).pending = s.pending := rfl
@[simp] theorem clearValid_readData (s : State) : (clearValid s).readData = s.readData := rfl
@[simp] theorem clearValid_imageData (s : State) : (clearValid s).imageData = s.imageData := rfl
@[simp] theorem clearValid_draws (s : State) : (clearValid s).draws = s.draws := rfl

/-! `clearSticky` -/

@[simp] theorem clearSticky_ctrl (d : Word) (s : State) : (clearSticky d s).ctrl = s.ctrl := rfl
@[simp] theorem clearSticky_poly (d : Word) (s : State) : (clearSticky d s).poly = s.poly := rfl
@[simp] theorem clearSticky_init (d : Word) (s : State) : (clearSticky d s).init = s.init := rfl
@[simp] theorem clearSticky_xorout (d : Word) (s : State) : (clearSticky d s).xorout = s.xorout := rfl
@[simp] theorem clearSticky_acc (d : Word) (s : State) : (clearSticky d s).acc = s.acc := rfl
@[simp] theorem clearSticky_result (d : Word) (s : State) : (clearSticky d s).result = s.result := rfl
@[simp] theorem clearSticky_status (d : Word) (s : State) :
    (clearSticky d s).status = s.status &&& ~~~(d &&& stickyMask) := rfl
@[simp] theorem clearSticky_rstart (d : Word) (s : State) : (clearSticky d s).rstart = s.rstart := rfl
@[simp] theorem clearSticky_rend (d : Word) (s : State) : (clearSticky d s).rend = s.rend := rfl
@[simp] theorem clearSticky_target (d : Word) (s : State) : (clearSticky d s).target = s.target := rfl
@[simp] theorem clearSticky_imgLow (d : Word) (s : State) : (clearSticky d s).imgLow = s.imgLow := rfl
@[simp] theorem clearSticky_imgHigh (d : Word) (s : State) : (clearSticky d s).imgHigh = s.imgHigh := rfl
@[simp] theorem clearSticky_tblIdx (d : Word) (s : State) : (clearSticky d s).tblIdx = s.tblIdx := rfl
@[simp] theorem clearSticky_tbl (d : Word) (s : State) : (clearSticky d s).tbl = s.tbl := rfl
@[simp] theorem clearSticky_image (d : Word) (s : State) : (clearSticky d s).image = s.image := rfl
@[simp] theorem clearSticky_pending (d : Word) (s : State) : (clearSticky d s).pending = s.pending := rfl
@[simp] theorem clearSticky_readData (d : Word) (s : State) : (clearSticky d s).readData = s.readData := rfl
@[simp] theorem clearSticky_imageData (d : Word) (s : State) : (clearSticky d s).imageData = s.imageData := rfl
@[simp] theorem clearSticky_draws (d : Word) (s : State) : (clearSticky d s).draws = s.draws := rfl

/-! `respond` -/

@[simp] theorem respond_ctrl (d : Word) (s : State) : (respond d s).ctrl = s.ctrl := rfl
@[simp] theorem respond_poly (d : Word) (s : State) : (respond d s).poly = s.poly := rfl
@[simp] theorem respond_init (d : Word) (s : State) : (respond d s).init = s.init := rfl
@[simp] theorem respond_xorout (d : Word) (s : State) : (respond d s).xorout = s.xorout := rfl
@[simp] theorem respond_acc (d : Word) (s : State) : (respond d s).acc = s.acc := rfl
@[simp] theorem respond_result (d : Word) (s : State) : (respond d s).result = s.result := rfl
@[simp] theorem respond_status (d : Word) (s : State) : (respond d s).status = s.status := rfl
@[simp] theorem respond_rstart (d : Word) (s : State) : (respond d s).rstart = s.rstart := rfl
@[simp] theorem respond_rend (d : Word) (s : State) : (respond d s).rend = s.rend := rfl
@[simp] theorem respond_target (d : Word) (s : State) : (respond d s).target = s.target := rfl
@[simp] theorem respond_imgLow (d : Word) (s : State) : (respond d s).imgLow = s.imgLow := rfl
@[simp] theorem respond_imgHigh (d : Word) (s : State) : (respond d s).imgHigh = s.imgHigh := rfl
@[simp] theorem respond_tblIdx (d : Word) (s : State) : (respond d s).tblIdx = s.tblIdx := rfl
@[simp] theorem respond_tbl (d : Word) (s : State) : (respond d s).tbl = s.tbl := rfl
@[simp] theorem respond_image (d : Word) (s : State) : (respond d s).image = s.image := rfl
@[simp] theorem respond_pending (d : Word) (s : State) : (respond d s).pending = s.pending := rfl
@[simp] theorem respond_readData (d : Word) (s : State) : (respond d s).readData = some d := rfl
@[simp] theorem respond_imageData (d : Word) (s : State) : (respond d s).imageData = s.imageData := rfl
@[simp] theorem respond_draws (d : Word) (s : State) : (respond d s).draws = s.draws := rfl

/-! `buildBody` -/

@[simp] theorem buildBody_ctrl (w : CrcWidth) (s : State) : (buildBody w s).ctrl = s.ctrl := rfl
@[simp] theorem buildBody_poly (w : CrcWidth) (s : State) : (buildBody w s).poly = s.poly := rfl
@[simp] theorem buildBody_init (w : CrcWidth) (s : State) : (buildBody w s).init = s.init := rfl
@[simp] theorem buildBody_xorout (w : CrcWidth) (s : State) : (buildBody w s).xorout = s.xorout := rfl
@[simp] theorem buildBody_acc (w : CrcWidth) (s : State) : (buildBody w s).acc = s.acc := rfl
@[simp] theorem buildBody_result (w : CrcWidth) (s : State) : (buildBody w s).result = s.result := rfl
@[simp] theorem buildBody_status (w : CrcWidth) (s : State) :
    (buildBody w s).status = s.status ||| statusWord .tableValid := rfl
@[simp] theorem buildBody_rstart (w : CrcWidth) (s : State) : (buildBody w s).rstart = s.rstart := rfl
@[simp] theorem buildBody_rend (w : CrcWidth) (s : State) : (buildBody w s).rend = s.rend := rfl
@[simp] theorem buildBody_target (w : CrcWidth) (s : State) : (buildBody w s).target = s.target := rfl
@[simp] theorem buildBody_imgLow (w : CrcWidth) (s : State) : (buildBody w s).imgLow = s.imgLow := rfl
@[simp] theorem buildBody_imgHigh (w : CrcWidth) (s : State) : (buildBody w s).imgHigh = s.imgHigh := rfl
@[simp] theorem buildBody_tblIdx (w : CrcWidth) (s : State) : (buildBody w s).tblIdx = s.tblIdx := rfl
@[simp] theorem buildBody_tbl (w : CrcWidth) (s : State) :
    (buildBody w s).tbl = tableOf (tblEntry w (refin s.ctrl) s.poly) := rfl
@[simp] theorem buildBody_image (w : CrcWidth) (s : State) : (buildBody w s).image = s.image := rfl
@[simp] theorem buildBody_pending (w : CrcWidth) (s : State) : (buildBody w s).pending = s.pending := rfl
@[simp] theorem buildBody_readData (w : CrcWidth) (s : State) : (buildBody w s).readData = s.readData := rfl
@[simp] theorem buildBody_imageData (w : CrcWidth) (s : State) : (buildBody w s).imageData = s.imageData := rfl
@[simp] theorem buildBody_draws (w : CrcWidth) (s : State) : (buildBody w s).draws = s.draws := rfl

/-! `startBody` -/

@[simp] theorem startBody_ctrl (w : CrcWidth) (s : State) : (startBody w s).ctrl = s.ctrl := rfl
@[simp] theorem startBody_poly (w : CrcWidth) (s : State) : (startBody w s).poly = s.poly := rfl
@[simp] theorem startBody_init (w : CrcWidth) (s : State) : (startBody w s).init = s.init := rfl
@[simp] theorem startBody_xorout (w : CrcWidth) (s : State) : (startBody w s).xorout = s.xorout := rfl
@[simp] theorem startBody_acc (w : CrcWidth) (s : State) : (startBody w s).acc = startValue w s := rfl
@[simp] theorem startBody_result (w : CrcWidth) (s : State) : (startBody w s).result = s.result := rfl
@[simp] theorem startBody_status (w : CrcWidth) (s : State) :
    (startBody w s).status = (s.status ||| statusWord .accValid) &&& ~~~statusWord .resultValid := rfl
@[simp] theorem startBody_rstart (w : CrcWidth) (s : State) : (startBody w s).rstart = s.rstart := rfl
@[simp] theorem startBody_rend (w : CrcWidth) (s : State) : (startBody w s).rend = s.rend := rfl
@[simp] theorem startBody_target (w : CrcWidth) (s : State) : (startBody w s).target = s.target := rfl
@[simp] theorem startBody_imgLow (w : CrcWidth) (s : State) : (startBody w s).imgLow = s.imgLow := rfl
@[simp] theorem startBody_imgHigh (w : CrcWidth) (s : State) : (startBody w s).imgHigh = s.imgHigh := rfl
@[simp] theorem startBody_tblIdx (w : CrcWidth) (s : State) : (startBody w s).tblIdx = s.tblIdx := rfl
@[simp] theorem startBody_tbl (w : CrcWidth) (s : State) : (startBody w s).tbl = s.tbl := rfl
@[simp] theorem startBody_image (w : CrcWidth) (s : State) : (startBody w s).image = s.image := rfl
@[simp] theorem startBody_pending (w : CrcWidth) (s : State) : (startBody w s).pending = s.pending := rfl
@[simp] theorem startBody_readData (w : CrcWidth) (s : State) : (startBody w s).readData = s.readData := rfl
@[simp] theorem startBody_imageData (w : CrcWidth) (s : State) : (startBody w s).imageData = s.imageData := rfl
@[simp] theorem startBody_draws (w : CrcWidth) (s : State) : (startBody w s).draws = s.draws := rfl

/-! `foldBody` -/

@[simp] theorem foldBody_ctrl (w : CrcWidth) (b : Byte) (s : State) : (foldBody w b s).ctrl = s.ctrl := rfl
@[simp] theorem foldBody_poly (w : CrcWidth) (b : Byte) (s : State) : (foldBody w b s).poly = s.poly := rfl
@[simp] theorem foldBody_init (w : CrcWidth) (b : Byte) (s : State) : (foldBody w b s).init = s.init := rfl
@[simp] theorem foldBody_xorout (w : CrcWidth) (b : Byte) (s : State) : (foldBody w b s).xorout = s.xorout := rfl
@[simp] theorem foldBody_acc (w : CrcWidth) (b : Byte) (s : State) :
    (foldBody w b s).acc = crcFold w (refin s.ctrl) s.tbl s.acc b := rfl
@[simp] theorem foldBody_result (w : CrcWidth) (b : Byte) (s : State) : (foldBody w b s).result = s.result := rfl
@[simp] theorem foldBody_status (w : CrcWidth) (b : Byte) (s : State) : (foldBody w b s).status = s.status := rfl
@[simp] theorem foldBody_rstart (w : CrcWidth) (b : Byte) (s : State) : (foldBody w b s).rstart = s.rstart := rfl
@[simp] theorem foldBody_rend (w : CrcWidth) (b : Byte) (s : State) : (foldBody w b s).rend = s.rend := rfl
@[simp] theorem foldBody_target (w : CrcWidth) (b : Byte) (s : State) : (foldBody w b s).target = s.target := rfl
@[simp] theorem foldBody_imgLow (w : CrcWidth) (b : Byte) (s : State) : (foldBody w b s).imgLow = s.imgLow := rfl
@[simp] theorem foldBody_imgHigh (w : CrcWidth) (b : Byte) (s : State) : (foldBody w b s).imgHigh = s.imgHigh := rfl
@[simp] theorem foldBody_tblIdx (w : CrcWidth) (b : Byte) (s : State) : (foldBody w b s).tblIdx = s.tblIdx := rfl
@[simp] theorem foldBody_tbl (w : CrcWidth) (b : Byte) (s : State) : (foldBody w b s).tbl = s.tbl := rfl
@[simp] theorem foldBody_image (w : CrcWidth) (b : Byte) (s : State) : (foldBody w b s).image = s.image := rfl
@[simp] theorem foldBody_pending (w : CrcWidth) (b : Byte) (s : State) : (foldBody w b s).pending = s.pending := rfl
@[simp] theorem foldBody_readData (w : CrcWidth) (b : Byte) (s : State) : (foldBody w b s).readData = s.readData := rfl
@[simp] theorem foldBody_imageData (w : CrcWidth) (b : Byte) (s : State) : (foldBody w b s).imageData = s.imageData := rfl
@[simp] theorem foldBody_draws (w : CrcWidth) (b : Byte) (s : State) : (foldBody w b s).draws = s.draws := rfl

/-! `finalBody` -/

@[simp] theorem finalBody_ctrl (w : CrcWidth) (s : State) : (finalBody w s).ctrl = s.ctrl := rfl
@[simp] theorem finalBody_poly (w : CrcWidth) (s : State) : (finalBody w s).poly = s.poly := rfl
@[simp] theorem finalBody_init (w : CrcWidth) (s : State) : (finalBody w s).init = s.init := rfl
@[simp] theorem finalBody_xorout (w : CrcWidth) (s : State) : (finalBody w s).xorout = s.xorout := rfl
@[simp] theorem finalBody_acc (w : CrcWidth) (s : State) : (finalBody w s).acc = s.acc := rfl
@[simp] theorem finalBody_result (w : CrcWidth) (s : State) :
    (finalBody w s).result = (s.acc ^^^ s.xorout) &&& widthMask w := rfl
@[simp] theorem finalBody_status (w : CrcWidth) (s : State) :
    (finalBody w s).status = s.status ||| statusWord .resultValid := rfl
@[simp] theorem finalBody_rstart (w : CrcWidth) (s : State) : (finalBody w s).rstart = s.rstart := rfl
@[simp] theorem finalBody_rend (w : CrcWidth) (s : State) : (finalBody w s).rend = s.rend := rfl
@[simp] theorem finalBody_target (w : CrcWidth) (s : State) : (finalBody w s).target = s.target := rfl
@[simp] theorem finalBody_imgLow (w : CrcWidth) (s : State) : (finalBody w s).imgLow = s.imgLow := rfl
@[simp] theorem finalBody_imgHigh (w : CrcWidth) (s : State) : (finalBody w s).imgHigh = s.imgHigh := rfl
@[simp] theorem finalBody_tblIdx (w : CrcWidth) (s : State) : (finalBody w s).tblIdx = s.tblIdx := rfl
@[simp] theorem finalBody_tbl (w : CrcWidth) (s : State) : (finalBody w s).tbl = s.tbl := rfl
@[simp] theorem finalBody_image (w : CrcWidth) (s : State) : (finalBody w s).image = s.image := rfl
@[simp] theorem finalBody_pending (w : CrcWidth) (s : State) : (finalBody w s).pending = s.pending := rfl
@[simp] theorem finalBody_readData (w : CrcWidth) (s : State) : (finalBody w s).readData = s.readData := rfl
@[simp] theorem finalBody_imageData (w : CrcWidth) (s : State) : (finalBody w s).imageData = s.imageData := rfl
@[simp] theorem finalBody_draws (w : CrcWidth) (s : State) : (finalBody w s).draws = s.draws := rfl

/-! `reportClip` -/

@[simp] theorem reportClip_ctrl (s : State) : (reportClip s).ctrl = s.ctrl := by
  unfold reportClip; split <;> rfl
@[simp] theorem reportClip_poly (s : State) : (reportClip s).poly = s.poly := by
  unfold reportClip; split <;> rfl
@[simp] theorem reportClip_init (s : State) : (reportClip s).init = s.init := by
  unfold reportClip; split <;> rfl
@[simp] theorem reportClip_xorout (s : State) : (reportClip s).xorout = s.xorout := by
  unfold reportClip; split <;> rfl
@[simp] theorem reportClip_acc (s : State) : (reportClip s).acc = s.acc := by
  unfold reportClip; split <;> rfl
@[simp] theorem reportClip_result (s : State) : (reportClip s).result = s.result := by
  unfold reportClip; split <;> rfl
@[simp] theorem reportClip_rstart (s : State) : (reportClip s).rstart = s.rstart := by
  unfold reportClip; split <;> rfl
@[simp] theorem reportClip_rend (s : State) : (reportClip s).rend = s.rend := by
  unfold reportClip; split <;> rfl
@[simp] theorem reportClip_target (s : State) : (reportClip s).target = s.target := by
  unfold reportClip; split <;> rfl
@[simp] theorem reportClip_imgLow (s : State) : (reportClip s).imgLow = s.imgLow := by
  unfold reportClip; split <;> rfl
@[simp] theorem reportClip_imgHigh (s : State) : (reportClip s).imgHigh = s.imgHigh := by
  unfold reportClip; split <;> rfl
@[simp] theorem reportClip_tblIdx (s : State) : (reportClip s).tblIdx = s.tblIdx := by
  unfold reportClip; split <;> rfl
@[simp] theorem reportClip_tbl (s : State) : (reportClip s).tbl = s.tbl := by
  unfold reportClip; split <;> rfl
@[simp] theorem reportClip_image (s : State) : (reportClip s).image = s.image := by
  unfold reportClip; split <;> rfl
@[simp] theorem reportClip_pending (s : State) : (reportClip s).pending = s.pending := by
  unfold reportClip; split <;> rfl
@[simp] theorem reportClip_readData (s : State) : (reportClip s).readData = s.readData := by
  unfold reportClip; split <;> rfl
@[simp] theorem reportClip_imageData (s : State) : (reportClip s).imageData = s.imageData := by
  unfold reportClip; split <;> rfl
@[simp] theorem reportClip_draws (s : State) : (reportClip s).draws = s.draws := by
  unfold reportClip; split <;> rfl

/-! `hostImageWrite` -/

@[simp] theorem hostImageWrite_ctrl (a : Word) (v : Byte) (s : State) : (hostImageWrite a v s).ctrl = s.ctrl := rfl
@[simp] theorem hostImageWrite_poly (a : Word) (v : Byte) (s : State) : (hostImageWrite a v s).poly = s.poly := rfl
@[simp] theorem hostImageWrite_init (a : Word) (v : Byte) (s : State) : (hostImageWrite a v s).init = s.init := rfl
@[simp] theorem hostImageWrite_xorout (a : Word) (v : Byte) (s : State) : (hostImageWrite a v s).xorout = s.xorout := rfl
@[simp] theorem hostImageWrite_acc (a : Word) (v : Byte) (s : State) : (hostImageWrite a v s).acc = s.acc := rfl
@[simp] theorem hostImageWrite_result (a : Word) (v : Byte) (s : State) : (hostImageWrite a v s).result = s.result := rfl
@[simp] theorem hostImageWrite_status (a : Word) (v : Byte) (s : State) : (hostImageWrite a v s).status = s.status := rfl
@[simp] theorem hostImageWrite_rstart (a : Word) (v : Byte) (s : State) : (hostImageWrite a v s).rstart = s.rstart := rfl
@[simp] theorem hostImageWrite_rend (a : Word) (v : Byte) (s : State) : (hostImageWrite a v s).rend = s.rend := rfl
@[simp] theorem hostImageWrite_target (a : Word) (v : Byte) (s : State) : (hostImageWrite a v s).target = s.target := rfl
@[simp] theorem hostImageWrite_imgLow (a : Word) (v : Byte) (s : State) : (hostImageWrite a v s).imgLow = s.imgLow := rfl
@[simp] theorem hostImageWrite_imgHigh (a : Word) (v : Byte) (s : State) : (hostImageWrite a v s).imgHigh = s.imgHigh := rfl
@[simp] theorem hostImageWrite_tblIdx (a : Word) (v : Byte) (s : State) : (hostImageWrite a v s).tblIdx = s.tblIdx := rfl
@[simp] theorem hostImageWrite_tbl (a : Word) (v : Byte) (s : State) : (hostImageWrite a v s).tbl = s.tbl := rfl
@[simp] theorem hostImageWrite_image (a : Word) (v : Byte) (s : State) : (hostImageWrite a v s).image = s.image.write a.toNat v := rfl
@[simp] theorem hostImageWrite_pending (a : Word) (v : Byte) (s : State) : (hostImageWrite a v s).pending = s.pending := rfl
@[simp] theorem hostImageWrite_readData (a : Word) (v : Byte) (s : State) : (hostImageWrite a v s).readData = s.readData := rfl
@[simp] theorem hostImageWrite_imageData (a : Word) (v : Byte) (s : State) : (hostImageWrite a v s).imageData = s.imageData := rfl
@[simp] theorem hostImageWrite_draws (a : Word) (v : Byte) (s : State) : (hostImageWrite a v s).draws = s.draws := rfl

/-! `assertReset` -/

@[simp] theorem assertReset_ctrl (s : State) : (assertReset s).ctrl = 0 := rfl
@[simp] theorem assertReset_poly (s : State) : (assertReset s).poly = 0 := rfl
@[simp] theorem assertReset_init (s : State) : (assertReset s).init = 0 := rfl
@[simp] theorem assertReset_xorout (s : State) : (assertReset s).xorout = 0 := rfl
@[simp] theorem assertReset_acc (s : State) : (assertReset s).acc = 0 := rfl
@[simp] theorem assertReset_result (s : State) : (assertReset s).result = 0 := rfl
@[simp] theorem assertReset_status (s : State) : (assertReset s).status = 0 := rfl
@[simp] theorem assertReset_rstart (s : State) : (assertReset s).rstart = 0 := rfl
@[simp] theorem assertReset_rend (s : State) : (assertReset s).rend = 0 := rfl
@[simp] theorem assertReset_target (s : State) : (assertReset s).target = 0 := rfl
@[simp] theorem assertReset_imgLow (s : State) : (assertReset s).imgLow = 0 := rfl
@[simp] theorem assertReset_imgHigh (s : State) : (assertReset s).imgHigh = 0 := rfl
@[simp] theorem assertReset_tblIdx (s : State) : (assertReset s).tblIdx = 0 := rfl
@[simp] theorem assertReset_tbl (s : State) : (assertReset s).tbl = drawnTable s.draws := rfl
@[simp] theorem assertReset_image (s : State) : (assertReset s).image = s.image := rfl
@[simp] theorem assertReset_pending (s : State) : (assertReset s).pending = s.pending := rfl
@[simp] theorem assertReset_readData (s : State) : (assertReset s).readData = s.readData := rfl
@[simp] theorem assertReset_imageData (s : State) : (assertReset s).imageData = s.imageData := rfl
@[simp] theorem assertReset_draws (s : State) : (assertReset s).draws = s.draws + 1 := rfl

/-- What `reportClip` does to `STATUS`: CLIPPED is set when an endpoint moved. -/
theorem reportClip_status (s : State) :
    (reportClip s).status = if rangeClipped s then s.status ||| statusWord .clipped else s.status := by
  unfold reportClip; split <;> rfl

end Sys2Proof.Machine
end

