-- ==== Sys2Proof/Laws/Flags.lean ====
section
/-! SUPPORT. The bits of STATUS: which bit each update sets or clears. -/

namespace Sys2Proof.Machine

/-- Two fields of STATUS stand at the same bit only if they are the same field (R36). -/
theorem statusIndex_inj {f g : StatusBit} : statusIndex f = statusIndex g ↔ f = g := by
  cases f <;> cases g <;> decide

theorem statusIndex_lt (f : StatusBit) : statusIndex f < 32 := by cases f <;> decide

theorem getLsbD_statusWord (f g : StatusBit) : (statusWord f).getLsbD (statusIndex g) = decide (g = f) := by
  cases f <;> cases g <;> decide

@[simp] theorem flag_setFlag (f g : StatusBit) (s : State) :
    flag g (setFlag f s) = (flag g s || decide (g = f)) := by
  simp only [flag, setFlag, BitVec.getLsbD_or, getLsbD_statusWord]

@[simp] theorem flag_clearFlag (f g : StatusBit) (s : State) :
    flag g (clearFlag f s) = (flag g s && !decide (g = f)) := by
  simp only [flag, clearFlag, BitVec.getLsbD_and, BitVec.getLsbD_not, getLsbD_statusWord, statusIndex_lt, decide_true,
    Bool.true_and]

/-- The write of STATUS clears the sticky bits it names and no other (R111). -/
@[simp] theorem flag_clearSticky (d : Word) (g : StatusBit) (s : State) :
    flag g (clearSticky d s) = (flag g s && !(d.getLsbD (statusIndex g) && decide (4 ≤ statusIndex g))) := by
  have h : stickyMask.getLsbD (statusIndex g) = decide (4 ≤ statusIndex g) := by cases g <;> decide
  simp only [flag, clearSticky, BitVec.getLsbD_and, BitVec.getLsbD_not, statusIndex_lt, h, decide_true, Bool.true_and]

@[simp] theorem flag_clearValid (g : StatusBit) (s : State) :
    flag g (clearValid s) = (flag g s && !decide (g = .tableValid) && !decide (g = .accValid) && !decide (g = .resultValid)) := by
  simp [clearValid]

/-- A bit of STATUS depends on STATUS alone. -/
theorem flag_congr {s t : State} (f : StatusBit) (h : s.status = t.status) : flag f s = flag f t := by
  simp [flag, h]

@[simp] theorem flag_respond (g : StatusBit) (d : Word) (s : State) : flag g (respond d s) = flag g s := rfl

@[simp] theorem flag_foldBody (g : StatusBit) (w : CrcWidth) (b : Byte) (s : State) :
    flag g (foldBody w b s) = flag g s := rfl

@[simp] theorem flag_buildBody (g : StatusBit) (w : CrcWidth) (s : State) :
    flag g (buildBody w s) = (flag g s || decide (g = .tableValid)) := flag_setFlag ..

@[simp] theorem flag_startBody (g : StatusBit) (w : CrcWidth) (s : State) :
    flag g (startBody w s) = ((flag g s || decide (g = .accValid)) && !decide (g = .resultValid)) := by
  unfold startBody; rw [flag_clearFlag, flag_setFlag]; rfl

@[simp] theorem flag_finalBody (g : StatusBit) (w : CrcWidth) (s : State) :
    flag g (finalBody w s) = (flag g s || decide (g = .resultValid)) := flag_setFlag ..

@[simp] theorem flag_reportClip (g : StatusBit) (s : State) :
    flag g (reportClip s) = (flag g s || (rangeClipped s && decide (g = .clipped))) := by
  unfold reportClip; split <;> simp_all

@[simp] theorem flag_hostImageWrite (g : StatusBit) (a : Word) (v : Byte) (s : State) :
    flag g (hostImageWrite a v s) = flag g s := rfl

/-- Reset clears every bit of STATUS (R250). -/
@[simp] theorem flag_assertReset (g : StatusBit) (s : State) : flag g (assertReset s) = false := by
  simp [flag]

end Sys2Proof.Machine
end

