-- ==== Sys2Proof/Laws/Memory.lean ====
section
/-! SUPPORT. The image: read after write, and the canonical form kept by every operation on it. -/

namespace Sys2Proof.Machine

@[simp] theorem Memory.read_nil (a : Nat) : Memory.read [] a = none := rfl

theorem Memory.read_write_self (m : Memory) (a : Nat) (v : Byte) : (m.write a v).read a = some v := by
  induction m with
  | nil => simp [Memory.write, Memory.read]
  | cons c m ih =>
    obtain ⟨b, x⟩ := c
    simp only [Memory.write]
    split
    · simp [Memory.read]
    · split
      · simp [Memory.read]
      · simp [Memory.read, *]

theorem Memory.read_write_other (m : Memory) {a b : Nat} (v : Byte) (h : b ≠ a) :
    (m.write a v).read b = m.read b := by
  induction m with
  | nil => simp [Memory.write, Memory.read, h]
  | cons c m ih =>
    obtain ⟨d, x⟩ := c
    simp only [Memory.write]
    split
    · simp [Memory.read, h]
    · split
      · subst_vars; simp [Memory.read, h]
      · simp [Memory.read, ih]

/-- A write sets one byte and changes no other (R62). -/
theorem Memory.read_write (m : Memory) (a b : Nat) (v : Byte) :
    (m.write a v).read b = if b = a then some v else m.read b := by
  split
  · subst_vars; exact m.read_write_self _ v
  · exact m.read_write_other v ‹_›

/-- A byte that an image lists is found at its address. -/
theorem Memory.mem_of_read {m : Memory} {a : Nat} {v : Byte} (h : m.read a = some v) : (a, v) ∈ m := by
  induction m with
  | nil => simp at h
  | cons c m ih =>
    obtain ⟨b, x⟩ := c
    simp only [Memory.read] at h
    split at h
    · simp_all
    · exact List.mem_cons_of_mem _ (ih h)

/-- The addresses after a write are the old ones and the one written. -/
theorem Memory.mem_write {m : Memory} {a : Nat} {v : Byte} {c : Host.Cell} (h : c ∈ m.write a v) :
    c = (a, v) ∨ c ∈ m := by
  induction m with
  | nil => simpa [Memory.write] using h
  | cons d m ih =>
    obtain ⟨b, x⟩ := d
    simp only [Memory.write] at h
    split at h
    · simpa using h
    · split at h
      · rcases List.mem_cons.1 h with h | h
        · exact .inl h
        · exact .inr (List.mem_cons_of_mem _ h)
      · rcases List.mem_cons.1 h with h | h
        · exact .inr (h ▸ List.mem_cons_self)
        · exact (ih h).imp_right (List.mem_cons_of_mem _)

/-- A write keeps the canonical form. -/
theorem Memory.write_wf {m : Memory} {a : Nat} (v : Byte) (h : m.wf) (ha : a < 2 ^ 32) : (m.write a v).wf := by
  refine ⟨?_, fun c hc => ?_⟩
  · obtain ⟨hp, -⟩ := h
    induction m with
    | nil => simp [Memory.write]
    | cons d m ih =>
      obtain ⟨b, x⟩ := d
      obtain ⟨hb, hm⟩ := List.pairwise_cons.1 hp
      simp only [Memory.write]
      split
      · refine List.pairwise_cons.2 ⟨fun c hc => ?_, hp⟩
        rcases List.mem_cons.1 hc with rfl | hc
        · assumption
        · exact Nat.lt_trans ‹a < b› (hb c hc)
      · split
        · subst_vars; exact List.pairwise_cons.2 ⟨hb, hm⟩
        · refine List.pairwise_cons.2 ⟨fun c hc => ?_, ih hm⟩
          rcases Memory.mem_write hc with rfl | hc
          · show b < a
            omega
          · exact hb c hc
  · rcases Memory.mem_write hc with rfl | hc
    · exact ha
    · exact h.2 c hc

/-- Writing the byte an address already holds changes nothing. -/
theorem Memory.write_same {m : Memory} {a : Nat} {v : Byte} (hw : m.Pairwise (fun p q => p.1 < q.1))
    (h : m.read a = some v) : m.write a v = m := by
  induction m with
  | nil => simp at h
  | cons c m ih =>
    obtain ⟨b, x⟩ := c
    obtain ⟨hb, hm⟩ := List.pairwise_cons.1 hw
    simp only [Memory.read] at h
    simp only [Memory.write]
    split at h
    · simp_all
    · rename_i hne
      have hlt : b < a := hb _ (Memory.mem_of_read h)
      rw [if_neg (by omega), if_neg hne, ih hm h]

/-- A listed address is a 32-bit address when the image is canonical. -/
theorem Memory.read_lt {m : Memory} {a : Nat} {v : Byte} (hw : m.wf) (h : m.read a = some v) : a < 2 ^ 32 :=
  hw.2 _ (Memory.mem_of_read h)

/-- What `memRead` answers. -/
theorem memRead_ok {a : Nat} {s : State} {v : Byte} : memRead a s = .ok v ↔ s.image.read a = some v := by
  unfold memRead; cases s.image.read a <;> simp

/-- When `memRead` answers no byte: the address is outside the buffer. -/
theorem memRead_error {a : Nat} {s : State} {f : Fault} :
    memRead a s = .error f ↔ s.image.read a = none ∧ f = .outsideBuffer := by
  unfold memRead; cases s.image.read a <;> simp [eq_comm]

/-- What `memWrite` answers: the address was in the buffer, and only the image changes. -/
theorem memWrite_ok {a : Nat} {v : Byte} {s t : State} :
    memWrite a v s = .ok t ↔ (s.image.read a).isSome = true ∧ t = { s with image := s.image.write a v } := by
  unfold memWrite; cases s.image.read a <;> simp [eq_comm]

/-- When `memWrite` answers no state: the address is outside the buffer. -/
theorem memWrite_error {a : Nat} {v : Byte} {s : State} {f : Fault} :
    memWrite a v s = .error f ↔ s.image.read a = none ∧ f = .outsideBuffer := by
  unfold memWrite; cases s.image.read a <;> simp [eq_comm]

/-- An engine write keeps the canonical form. -/
theorem memWrite_wf {a : Nat} {v : Byte} {s t : State} (h : memWrite a v s = .ok t) (hw : s.image.wf) : t.image.wf := by
  obtain ⟨hs, rfl⟩ := memWrite_ok.1 h
  obtain ⟨x, hx⟩ := Option.isSome_iff_exists.1 hs
  exact Memory.write_wf v hw (Memory.read_lt hw hx)

/-- A host write keeps the canonical form. -/
theorem hostImageWrite_wf {a : Word} {v : Byte} {s : State} (hw : s.image.wf) : (hostImageWrite a v s).image.wf :=
  Memory.write_wf v hw a.isLt

/-- What `hostImageRead` answers. -/
theorem hostImageRead_ok {a : Word} {s t : State} :
    hostImageRead a s = .ok t ↔ ∃ v, s.image.read a.toNat = some v ∧ t = { s with imageData := some v } := by
  unfold hostImageRead memRead; cases s.image.read a.toNat <;> simp [eq_comm]

end Sys2Proof.Machine
end

