-- ==== Sys2Proof/Laws/Ops.lean ====
section
/-! SUPPORT. One lemma per shared operation that says once everything it can do; later proofs cite these and unfold none of the
operations. -/

namespace Sys2Proof.Machine

/-! The loops over the image -/

/-- What the FOLDRANGE loop does when it answers a state: it read `n` bytes upwards from `a` and folded them into `ACC` in that
order, and nothing else changed. -/
theorem foldFrom_ok {w : CrcWidth} : ∀ {n a : Nat} {s t : State}, foldFrom w n a s = .ok t →
    ∃ bytes : List Byte, bytes.length = n ∧ (∀ k (h : k < bytes.length), s.image.read (a + k) = some bytes[k]) ∧
      t = { s with acc := bytes.foldl (crcFold w (refin s.ctrl) s.tbl) s.acc }
  | 0, a, s, t, h => ⟨[], rfl, by simp, by cases h; rfl⟩
  | n + 1, a, s, t, h => by
    simp only [foldFrom] at h
    split at h
    · rename_i b hb
      obtain ⟨bytes, hlen, hread, ht⟩ := foldFrom_ok h
      refine ⟨b :: bytes, by simp [hlen], fun k hk => ?_, by simpa [foldBody] using ht⟩
      cases k with
      | zero => simpa using memRead_ok.1 hb
      | succ k => simpa [Nat.add_assoc, Nat.add_comm 1 k] using hread k (by simpa using hk)
    · cases h

/-- The FOLDRANGE loop answers a state when every byte is in the buffer. -/
theorem foldFrom_of_bytes {w : CrcWidth} : ∀ {bytes : List Byte} {a : Nat} {s : State},
    (∀ k (h : k < bytes.length), s.image.read (a + k) = some bytes[k]) →
    foldFrom w bytes.length a s = .ok { s with acc := bytes.foldl (crcFold w (refin s.ctrl) s.tbl) s.acc }
  | [], _, _, _ => rfl
  | b :: bytes, a, s, h => by
    have h0 : memRead a s = .ok b := memRead_ok.2 (h 0 (by simp))
    simp only [List.length_cons, foldFrom, h0]
    rw [foldFrom_of_bytes (s := foldBody w b s) fun k hk => by
      rw [show a + 1 + k = a + (k + 1) by omega]
      exact h (k + 1) (by simpa using hk)]
    rfl

/-- The FOLDRANGE loop stops only at an address outside the buffer. -/
theorem foldFrom_error {w : CrcWidth} : ∀ {n a : Nat} {s : State} {f : Fault}, foldFrom w n a s = .error f →
    f = .outsideBuffer ∧ ∃ k < n, s.image.read (a + k) = none
  | 0, a, s, f, h => by cases h
  | n + 1, a, s, f, h => by
    simp only [foldFrom] at h
    split at h
    · obtain ⟨hf, k, hk, hn⟩ := foldFrom_error h
      exact ⟨hf, k + 1, by omega, by simpa [Nat.add_assoc, Nat.add_comm 1 k] using hn⟩
    · rename_i e he
      cases h
      obtain ⟨hn, hf⟩ := memRead_error.1 he
      exact ⟨hf, 0, by omega, by simpa using hn⟩

/-- What the STORE loop does when it answers a state: only the image changes, byte `k + j` of the result stands at
`TARGET + k + j`, and every address outside those `n` reads as before. -/
theorem storeFrom_ok {w : CrcWidth} : ∀ {n k : Nat} {s t : State}, storeFrom w n k s = .ok t →
    t = { s with image := t.image } ∧ (s.image.wf → t.image.wf) ∧
      (∀ j < n, (s.image.read (s.target.toNat + k + j)).isSome = true) ∧
      (∀ j < n, t.image.read (s.target.toNat + k + j) = some (storeByte s.result (widthBytes w) (endianBig s.ctrl) (k + j))) ∧
      ∀ a, (∀ j < n, a ≠ s.target.toNat + k + j) → t.image.read a = s.image.read a
  | 0, k, s, t, h => by cases h; exact ⟨rfl, id, by simp, by simp, fun _ _ => rfl⟩
  | n + 1, k, s, t, h => by
    simp only [storeFrom] at h
    split at h
    · rename_i u hu
      have hwf := memWrite_wf hu
      obtain ⟨hs, rfl⟩ := memWrite_ok.1 hu
      obtain ⟨ht, hw, hsome, hbytes, hother⟩ := storeFrom_ok h
      dsimp only at ht hw hsome hbytes hother
      refine ⟨ht, fun hi => hw (hwf hi), fun j hj => ?_, fun j hj => ?_, fun a ha => ?_⟩
      · cases j with
        | zero => simpa using hs
        | succ j =>
          have := hsome j (by omega)
          rw [Memory.read_write_other _ _ (by omega)] at this
          simpa [Nat.add_assoc, Nat.add_comm 1 j] using this
      · cases j with
        | zero =>
          rw [hother _ (by intros; omega)]
          simpa using Memory.read_write_self _ _ _
        | succ j => simpa [Nat.add_assoc, Nat.add_comm 1 j] using hbytes j (by omega)
      · rw [hother a fun j hj => by have := ha (j + 1) (by omega); omega]
        exact Memory.read_write_other _ _ (by simpa using ha 0 (by omega))
    · cases h

/-- The STORE loop answers a state when every byte of the field is in the buffer. -/
theorem storeFrom_of_owned {w : CrcWidth} : ∀ {n k : Nat} {s : State},
    (∀ j < n, (s.image.read (s.target.toNat + k + j)).isSome = true) → ∃ t, storeFrom w n k s = .ok t
  | 0, k, s, _ => ⟨s, rfl⟩
  | n + 1, k, s, h => by
    have h0 := (memWrite_ok (v := storeByte s.result (widthBytes w) (endianBig s.ctrl) k)).2
      ⟨by simpa using h 0 (by omega), rfl⟩
    simp only [storeFrom, h0]
    refine storeFrom_of_owned fun j hj => ?_
    dsimp only
    rw [Memory.read_write_other _ _ (by omega)]
    simpa [Nat.add_assoc, Nat.add_comm 1 j] using h (j + 1) (by omega)

/-- The STORE loop stops only at an address outside the buffer. -/
theorem storeFrom_error {w : CrcWidth} : ∀ {n k : Nat} {s : State} {f : Fault}, storeFrom w n k s = .error f →
    f = .outsideBuffer ∧ ∃ j < n, s.image.read (s.target.toNat + k + j) = none
  | 0, k, s, f, h => by cases h
  | n + 1, k, s, f, h => by
    simp only [storeFrom] at h
    split at h
    · rename_i u hu
      obtain ⟨hs, rfl⟩ := memWrite_ok.1 hu
      obtain ⟨hf, j, hj, hn⟩ := storeFrom_error h
      dsimp only at hn
      rw [Memory.read_write_other _ _ (by omega)] at hn
      exact ⟨hf, j + 1, by omega, by simpa [Nat.add_assoc, Nat.add_comm 1 j] using hn⟩
    · rename_i e he
      cases h
      obtain ⟨hn, hf⟩ := memWrite_error.1 he
      exact ⟨hf, 0, by omega, by simpa using hn⟩

/-! The checks and the outcomes -/

/-- A rejected command has a next state, which differs from the state before in the error's bit alone (R221). -/
@[simp] theorem reject_eq (e : StatusBit) (s : State) : reject e s = .next (setFlag e s) := rfl

theorem withWidth_some {s : State} {w : CrcWidth} {k : CrcWidth → Outcome} (h : crcWidth s.ctrl = some w) :
    withWidth s k = k w := by simp [withWidth, h]

theorem withWidth_none {s : State} {k : CrcWidth → Outcome} (h : crcWidth s.ctrl = none) :
    withWidth s k = .next (setFlag .errCfg s) := by simp [withWidth, h]

/-- What a width check can lead to: the rejection with ERR_CFG, or the rest of the command at the selected width. -/
theorem withWidth_cases (s : State) (k : CrcWidth → Outcome) :
    (crcWidth s.ctrl = none ∧ withWidth s k = .next (setFlag .errCfg s)) ∨
      ∃ w, crcWidth s.ctrl = some w ∧ withWidth s k = k w := by
  cases h : crcWidth s.ctrl with
  | none => exact .inl ⟨rfl, withWidth_none h⟩
  | some w => exact .inr ⟨w, rfl, withWidth_some h⟩

theorem finish_next {r : Except Fault State} {t : State} : finish r = .next t ↔ r = .ok t := by
  cases r <;> simp [finish]

theorem finish_fault {r : Except Fault State} {f : Fault} : finish r = .fault f ↔ r = .error f := by
  cases r <;> simp [finish]

theorem finish_not_refused {r : Except Fault State} {x : Refusal} : finish r ≠ .refused x := by
  cases r <;> simp [finish]

/-! The bodies that use the image -/

/-- What FOLDRANGE's body does when it answers a state (R163): CLIPPED as the range says, the range's bytes folded. -/
theorem foldRangeBody_ok {w : CrcWidth} {s t : State} (h : foldRangeBody w s = .ok t) :
    ∃ bytes : List Byte, bytes.length = rangeLength s ∧
      (∀ k (h : k < bytes.length), s.image.read (effStart s + k) = some bytes[k]) ∧
      t = { reportClip s with acc := bytes.foldl (crcFold w (refin s.ctrl) s.tbl) s.acc } := by
  obtain ⟨bytes, hlen, hread, ht⟩ := foldFrom_ok h
  exact ⟨bytes, hlen, by simpa using hread, by simpa using ht⟩

/-- FOLDRANGE's body answers a state when the range's bytes are in the buffer. -/
theorem foldRangeBody_of_bytes {w : CrcWidth} {s : State} {bytes : List Byte} (hlen : bytes.length = rangeLength s)
    (h : ∀ k (h : k < bytes.length), s.image.read (effStart s + k) = some bytes[k]) :
    foldRangeBody w s = .ok { reportClip s with acc := bytes.foldl (crcFold w (refin s.ctrl) s.tbl) s.acc } := by
  unfold foldRangeBody
  rw [← hlen, foldFrom_of_bytes (s := reportClip s) (by simpa using h)]
  simp

/-- What STORE's body does when it answers a state (R181, R182). -/
theorem storeBody_ok {w : CrcWidth} {s t : State} (h : storeBody w s = .ok t) :
    t = { s with image := t.image } ∧ (s.image.wf → t.image.wf) ∧
      (∀ k < widthBytes w, (s.image.read (s.target.toNat + k)).isSome = true) ∧
      (∀ k < widthBytes w, t.image.read (s.target.toNat + k) = some (storeByte s.result (widthBytes w) (endianBig s.ctrl) k)) ∧
      ∀ a, (∀ k < widthBytes w, a ≠ s.target.toNat + k) → t.image.read a = s.image.read a := by
  simpa using storeFrom_ok h

/-- What COMPUTE's body does when it answers a state: the fold of the range, then the store of what FINAL made of it. -/
theorem computeBody_ok {w : CrcWidth} {s t : State} (h : computeBody w s = .ok t) :
    ∃ u, foldRangeBody w (startBody w (buildBody w s)) = .ok u ∧ storeBody w (finalBody w u) = .ok t := by
  unfold computeBody at h
  split at h
  · exact ⟨_, ‹_›, h⟩
  · cases h

theorem computeBody_error {w : CrcWidth} {s : State} {f : Fault} (h : computeBody w s = .error f) :
    foldRangeBody w (startBody w (buildBody w s)) = .error f ∨
      ∃ u, foldRangeBody w (startBody w (buildBody w s)) = .ok u ∧ storeBody w (finalBody w u) = .error f := by
  unfold computeBody at h
  split at h
  · exact .inr ⟨_, ‹_›, h⟩
  · cases h; exact .inl ‹_›

/-! The host's side -/

/-- What `fetch` takes: the host's next action, and nothing else changes. -/
theorem fetch_some {s t : State} {a : HostAction} :
    fetch s = some (a, t) ↔ ∃ rest, s.pending = a :: rest ∧ t = { s with pending := rest } := by
  unfold fetch
  cases h : s.pending <;> simp [eq_comm]

theorem fetch_none {s : State} : fetch s = none ↔ s.pending = [] := by
  unfold fetch; cases s.pending <;> simp

/-- While BUSY is 0 nothing is forbidden (R263). -/
theorem busyForbids_of_not_busy {a : HostAction} {s : State} (h : flag .busy s = false) : busyForbids a s = false := by
  simp [busyForbids, h]

/-- What a rejected request does: ERR_CMD, or a bus error. -/
theorem rejectRequest_cases (e : DecodeError) (s : State) :
    rejectRequest e s = .next (setFlag .errCmd s) ∨ rejectRequest e s = .fault .busError := by
  cases e <;> simp [rejectRequest]

end Sys2Proof.Machine
end

