-- ==== Sys2Proof/Laws/Exec.lean ====
section
/-! SUPPORT. What each command can do: if it answers a next state, one of these cases holds, with the checks that led there. The
bus accesses other than the write of CMD need no such lemma: each meaning is one update. -/

namespace Sys2Proof.Machine

theorem execBuild_cases {s t : State} (h : execBuild s = .next t) :
    (crcWidth s.ctrl = none ∧ t = setFlag .errCfg s) ∨ ∃ w, crcWidth s.ctrl = some w ∧ t = buildBody w s := by
  unfold execBuild at h
  rcases withWidth_cases s _ with ⟨hw, he⟩ | ⟨w, hw, he⟩ <;> rw [he] at h <;> cases h
  · exact .inl ⟨hw, rfl⟩
  · exact .inr ⟨w, hw, rfl⟩

theorem execStart_cases {s t : State} (h : execStart s = .next t) :
    (crcWidth s.ctrl = none ∧ t = setFlag .errCfg s) ∨ ∃ w, crcWidth s.ctrl = some w ∧ t = startBody w s := by
  unfold execStart at h
  rcases withWidth_cases s _ with ⟨hw, he⟩ | ⟨w, hw, he⟩ <;> rw [he] at h <;> cases h
  · exact .inl ⟨hw, rfl⟩
  · exact .inr ⟨w, hw, rfl⟩

theorem execFold_cases {b : Byte} {s t : State} (h : execFold b s = .next t) :
    (crcWidth s.ctrl = none ∧ t = setFlag .errCfg s) ∨ ∃ w, crcWidth s.ctrl = some w ∧
      (((flag .tableValid s && flag .accValid s) = false ∧ t = setFlag .errSeq s) ∨
        ((flag .tableValid s && flag .accValid s) = true ∧ t = foldBody w b s)) := by
  unfold execFold at h
  rcases withWidth_cases s _ with ⟨hw, he⟩ | ⟨w, hw, he⟩ <;> rw [he] at h
  · cases h; exact .inl ⟨hw, rfl⟩
  · refine .inr ⟨w, hw, ?_⟩
    split at h <;> cases h
    · exact .inr ⟨‹_›, rfl⟩
    · exact .inl ⟨Bool.eq_false_iff.2 ‹_›, rfl⟩

theorem execFinal_cases {s t : State} (h : execFinal s = .next t) :
    (crcWidth s.ctrl = none ∧ t = setFlag .errCfg s) ∨ ∃ w, crcWidth s.ctrl = some w ∧
      ((flag .accValid s = false ∧ t = setFlag .errSeq s) ∨ (flag .accValid s = true ∧ t = finalBody w s)) := by
  unfold execFinal at h
  rcases withWidth_cases s _ with ⟨hw, he⟩ | ⟨w, hw, he⟩ <;> rw [he] at h
  · cases h; exact .inl ⟨hw, rfl⟩
  · refine .inr ⟨w, hw, ?_⟩
    split at h <;> cases h
    · exact .inr ⟨‹_›, rfl⟩
    · exact .inl ⟨Bool.eq_false_iff.2 ‹_›, rfl⟩

theorem execFoldRange_cases {s t : State} (h : execFoldRange s = .next t) :
    (crcWidth s.ctrl = none ∧ t = setFlag .errCfg s) ∨ ∃ w, crcWidth s.ctrl = some w ∧
      (((flag .tableValid s && flag .accValid s) = false ∧ t = setFlag .errSeq s) ∨
        ((flag .tableValid s && flag .accValid s) = true ∧
          ((noImage s = true ∧ t = setFlag .errAddr s) ∨ (noImage s = false ∧ foldRangeBody w s = .ok t)))) := by
  unfold execFoldRange at h
  rcases withWidth_cases s _ with ⟨hw, he⟩ | ⟨w, hw, he⟩ <;> rw [he] at h
  · cases h; exact .inl ⟨hw, rfl⟩
  · refine .inr ⟨w, hw, ?_⟩
    split at h
    · refine .inr ⟨‹_›, ?_⟩
      split at h
      · cases h; exact .inl ⟨‹_›, rfl⟩
      · exact .inr ⟨Bool.eq_false_iff.2 ‹_›, finish_next.1 h⟩
    · cases h; exact .inl ⟨Bool.eq_false_iff.2 ‹_›, rfl⟩

theorem execStore_cases {s t : State} (h : execStore s = .next t) :
    (crcWidth s.ctrl = none ∧ t = setFlag .errCfg s) ∨ ∃ w, crcWidth s.ctrl = some w ∧
      ((flag .resultValid s = false ∧ t = setFlag .errSeq s) ∨
        (flag .resultValid s = true ∧
          ((storeOk w s = false ∧ t = setFlag .errAddr s) ∨ (storeOk w s = true ∧ storeBody w s = .ok t)))) := by
  unfold execStore at h
  rcases withWidth_cases s _ with ⟨hw, he⟩ | ⟨w, hw, he⟩ <;> rw [he] at h
  · cases h; exact .inl ⟨hw, rfl⟩
  · refine .inr ⟨w, hw, ?_⟩
    split at h
    · refine .inr ⟨‹_›, ?_⟩
      split at h
      · exact .inr ⟨‹_›, finish_next.1 h⟩
      · cases h; exact .inl ⟨Bool.eq_false_iff.2 ‹_›, rfl⟩
    · cases h; exact .inl ⟨Bool.eq_false_iff.2 ‹_›, rfl⟩

theorem execCompute_cases {s t : State} (h : execCompute s = .next t) :
    (crcWidth s.ctrl = none ∧ t = setFlag .errCfg s) ∨ ∃ w, crcWidth s.ctrl = some w ∧
      (((noImage s = true ∨ storeOk w s = false) ∧ t = setFlag .errAddr s) ∨
        (noImage s = false ∧ storeOk w s = true ∧ computeBody w s = .ok t)) := by
  unfold execCompute at h
  rcases withWidth_cases s _ with ⟨hw, he⟩ | ⟨w, hw, he⟩ <;> rw [he] at h
  · cases h; exact .inl ⟨hw, rfl⟩
  · refine .inr ⟨w, hw, ?_⟩
    split at h
    · cases h; exact .inl ⟨.inl ‹_›, rfl⟩
    · split at h
      · exact .inr ⟨Bool.eq_false_iff.2 ‹_›, ‹_›, finish_next.1 h⟩
      · cases h; exact .inl ⟨.inr (Bool.eq_false_iff.2 ‹_›), rfl⟩

/-- A decoded command runs as the instruction it is. -/
theorem runCommand_eq_exec (c : Command) (s : State) : runCommand c s = exec c.toInstr s := by cases c <;> rfl

/-- What a write of CMD can do: run the command its word decodes to, or be rejected with ERR_CMD (R112). -/
theorem execWrCmd_cases (d : Word) (s : State) :
    (∃ c, decodeCommand d = .ok c ∧ execWrCmd d s = exec c.toInstr s) ∨
      ∃ e, decodeCommand d = .error e ∧ execWrCmd d s = .next (setFlag .errCmd s) := by
  unfold execWrCmd
  cases h : decodeCommand d with
  | ok c => exact .inl ⟨c, rfl, runCommand_eq_exec c s⟩
  | error e => exact .inr ⟨e, rfl, rfl⟩

/-- What a write of CTRL does: the implemented bits are stored, and the validity bits fall when WIDTH or REFIN changes. -/
theorem execWrCtrl_eq (d : Word) (s : State) :
    execWrCtrl d s =
      if widthField (d &&& ctrlMask) ≠ widthField s.ctrl ∨ refin (d &&& ctrlMask) ≠ refin s.ctrl then
        .next { clearValid s with ctrl := d &&& ctrlMask }
      else .next { s with ctrl := d &&& ctrlMask } := rfl

/-- A sequence of instructions: the first one's next state, then the rest. -/
theorem execAll_cons_next {i : Instr} {is : List Instr} {s t : State} (h : exec i s = .next t) :
    execAll (i :: is) s = execAll is t := by simp [execAll, h]

/-- If a sequence answers a next state, its first instruction did, and the rest did from there. -/
theorem execAll_cons_cases {i : Instr} {is : List Instr} {s u : State} (h : execAll (i :: is) s = .next u) :
    ∃ t, exec i s = .next t ∧ execAll is t = .next u := by
  unfold execAll at h
  split at h
  · exact ⟨_, ‹_›, h⟩
  all_goals cases h

end Sys2Proof.Machine
end

