-- ==== Sys2Proof/Laws/PerInstr.lean ====
section
/-! SUPPORT. The families of statements that are made per instruction. -/

namespace Sys2Proof.Laws.EncodeWellFormed

/-- What an instruction is encoded as is well-formed: a valid command word or a well-formed transaction (R84, R88). -/
def Statement (i : Instr) : Prop := (encode i).wellFormed

theorem nop : Statement .nop := by
  show _ ∧ _ ∧ _; decide
theorem build : Statement .build := by
  show _ ∧ _ ∧ _; decide
theorem start : Statement .start := by
  show _ ∧ _ ∧ _; decide
theorem fold (b : Byte) : Statement (.fold b) := by
  show commandWordValid (commandWord 0x03 b)
  revert b
  decide +kernel
theorem final : Statement .final := by
  show _ ∧ _ ∧ _; decide
theorem foldRange : Statement .foldRange := by
  show _ ∧ _ ∧ _; decide
theorem store : Statement .store := by
  show _ ∧ _ ∧ _; decide
theorem compute : Statement .compute := by
  show _ ∧ _ ∧ _; decide
theorem rdCtrl : Statement .rdCtrl := busRead_wellFormed .ctrl
theorem wrCtrl (data : Word) : Statement (.wrCtrl data) := busWrite_wellFormed .ctrl data
theorem rdPoly : Statement .rdPoly := busRead_wellFormed .poly
theorem wrPoly (data : Word) : Statement (.wrPoly data) := busWrite_wellFormed .poly data
theorem rdInit : Statement .rdInit := busRead_wellFormed .init
theorem wrInit (data : Word) : Statement (.wrInit data) := busWrite_wellFormed .init data
theorem rdXorout : Statement .rdXorout := busRead_wellFormed .xorout
theorem wrXorout (data : Word) : Statement (.wrXorout data) := busWrite_wellFormed .xorout data
theorem rdAcc : Statement .rdAcc := busRead_wellFormed .acc
theorem wrAcc (data : Word) : Statement (.wrAcc data) := busWrite_wellFormed .acc data
theorem rdResult : Statement .rdResult := busRead_wellFormed .result
theorem wrResult (data : Word) : Statement (.wrResult data) := busWrite_wellFormed .result data
theorem rdCmd : Statement .rdCmd := busRead_wellFormed .cmd
theorem wrCmd (data : Word) : Statement (.wrCmd data) := busWrite_wellFormed .cmd data
theorem rdStatus : Statement .rdStatus := busRead_wellFormed .status
theorem wrStatus (data : Word) : Statement (.wrStatus data) := busWrite_wellFormed .status data
theorem rdRstart : Statement .rdRstart := busRead_wellFormed .rstart
theorem wrRstart (data : Word) : Statement (.wrRstart data) := busWrite_wellFormed .rstart data
theorem rdRend : Statement .rdRend := busRead_wellFormed .rend
theorem wrRend (data : Word) : Statement (.wrRend data) := busWrite_wellFormed .rend data
theorem rdTarget : Statement .rdTarget := busRead_wellFormed .target
theorem wrTarget (data : Word) : Statement (.wrTarget data) := busWrite_wellFormed .target data
theorem rdImgLow : Statement .rdImgLow := busRead_wellFormed .imgLow
theorem wrImgLow (data : Word) : Statement (.wrImgLow data) := busWrite_wellFormed .imgLow data
theorem rdImgHigh : Statement .rdImgHigh := busRead_wellFormed .imgHigh
theorem wrImgHigh (data : Word) : Statement (.wrImgHigh data) := busWrite_wellFormed .imgHigh data
theorem rdTblIdx : Statement .rdTblIdx := busRead_wellFormed .tblIdx
theorem wrTblIdx (data : Word) : Statement (.wrTblIdx data) := busWrite_wellFormed .tblIdx data
theorem rdTblData : Statement .rdTblData := busRead_wellFormed .tblData
theorem wrTblData (data : Word) : Statement (.wrTblData data) := busWrite_wellFormed .tblData data

end Sys2Proof.Laws.EncodeWellFormed
end

