-- ==== Sys2Proof/Laws/Step.lean ====
section
/-! SUPPORT. What one step can do, case by case of the host's next action. -/

namespace Sys2Proof.Machine

/-- If a step answers a next state, the block was idle, or the host's next action was taken off the list and did what its kind
does. -/
theorem step_cases {s t : State} (h : step s = .next t) :
    (s.pending = [] ∧ t = s) ∨ ∃ a rest u, s.pending = a :: rest ∧ u = { s with pending := rest } ∧
      busyForbids a u = false ∧
      ((∃ r i, a = .request r ∧ decode r = .ok i ∧ exec i u = .next t) ∨
        (∃ r e, a = .request r ∧ decode r = .error e ∧ t = setFlag .errCmd u) ∨
        (a = .reset ∧ t = assertReset u) ∨
        (∃ b v, a = .imageWrite b v ∧ t = hostImageWrite b v u) ∨
        ∃ b v, a = .imageRead b ∧ u.image.read b.toNat = some v ∧ t = { u with imageData := some v }) := by
  unfold step at h
  split at h
  · cases h; exact .inl ⟨fetch_none.1 ‹_›, rfl⟩
  · rename_i a u hf
    obtain ⟨rest, hp, hu⟩ := fetch_some.1 hf
    refine .inr ⟨a, rest, u, hp, hu, ?_⟩
    split at h
    · cases h
    · rename_i hb
      refine ⟨Bool.eq_false_iff.2 hb, ?_⟩
      cases a with
      | request r =>
        dsimp only at h
        split at h
        · exact .inl ⟨r, _, rfl, ‹_›, h⟩
        · rename_i e he
          refine .inr (.inl ⟨r, e, rfl, he, ?_⟩)
          rcases rejectRequest_cases e u with hr | hr <;> rw [hr] at h <;> cases h
          rfl
      | reset => cases h; exact .inr (.inr (.inl ⟨rfl, rfl⟩))
      | imageWrite b v => cases h; exact .inr (.inr (.inr (.inl ⟨_, _, rfl, rfl⟩)))
      | imageRead b =>
        obtain ⟨v, hv, rfl⟩ := hostImageRead_ok.1 (finish_next.1 h)
        exact .inr (.inr (.inr (.inr ⟨_, v, rfl, hv, rfl⟩)))

@[simp] theorem runSteps_zero (s : State) : runSteps 0 s = .next s := rfl

/-- One step more: the first step's next state, then the other steps. -/
theorem runSteps_succ_next {n : Nat} {s t : State} (h : step s = .next t) : runSteps (n + 1) s = runSteps n t := by
  simp [runSteps, h]

end Sys2Proof.Machine
end

