-- ==== Sys2Proof/Tests/Slice0.lean ====
section
/-! SUPPORT. The model's own tests: ill-formed terms refused, decoded words written out from the spec's encoding, vectors of
95_test_vectors.md (named in each comment), and a witness for each statement that has hypotheses. -/

namespace Sys2Proof.Tests

open Sys2Proof.Machine

/-! What is ill-formed is refused (R83, R85, R88) -/

theorem test_refuses_size_2 : ¬ (⟨.read, 0x1C, 2, 0⟩ : Transaction).wellFormed := by decide
theorem test_refuses_misaligned : ¬ (⟨.write, 0x02, 4, 0⟩ : Transaction).wellFormed := by decide
theorem test_refuses_unmapped : ¬ (⟨.read, 0x3C, 4, 0⟩ : Transaction).wellFormed := by decide
theorem test_accepts_last_register : (⟨.read, 0x38, 4, 0⟩ : Transaction).wellFormed := by decide
theorem test_refuses_rsvd : ¬ commandWordValid 0x00013103 := by decide
theorem test_refuses_op_08 : ¬ commandWordValid 0x00000008 := by decide
theorem test_refuses_arg_on_nop : ¬ commandWordValid 0x00000100 := by decide
theorem test_accepts_fold_arg : commandWordValid 0x0000FF03 := by decide

/-- The decoder rejects the same, each by its own name (BA13 to BA16, FO15, CO2). -/
theorem test_rejections_by_name :
    decode (.bus ⟨.read, 0x1C, 2, 0⟩) = .error .badSize ∧
    decode (.bus ⟨.write, 0x02, 4, 0⟩) = .error .misaligned ∧
    decode (.bus ⟨.read, 0x3C, 4, 0⟩) = .error .unmapped ∧
    decode (.cmd 0x00013103) = .error .nonzeroRsvd ∧
    decode (.cmd 0x00000008) = .error .reservedOpcode ∧
    decode (.cmd 0x00000100) = .error .nonzeroArg :=
  ⟨rfl, rfl, rfl, rfl, rfl, rfl⟩

/-! Every constructor's decoding, each word written out from R80, R81, R23 and R88: RSVD, ARG and OP of a command word, the bits
of `d` and the offset of a BUS key -/

theorem test_decode_commands :
    decodeTableWord 32 0b0000000000000000_00000000_00000000 = some .nop ∧
    decodeTableWord 32 0b0000000000000000_00000000_00000001 = some .build ∧
    decodeTableWord 32 0b0000000000000000_00000000_00000010 = some .start ∧
    decodeTableWord 32 0b0000000000000000_00110001_00000011 = some (.fold 0x31) ∧
    decodeTableWord 32 0b0000000000000000_00000000_00000100 = some .final ∧
    decodeTableWord 32 0b0000000000000000_00000000_00000101 = some .foldRange ∧
    decodeTableWord 32 0b0000000000000000_00000000_00000110 = some .store ∧
    decodeTableWord 32 0b0000000000000000_00000000_00000111 = some .compute := by decide

theorem test_decode_reads :
    decodeTableWord 16 0b0_00000000 = some .rdCtrl ∧ decodeTableWord 16 0b0_00000100 = some .rdPoly ∧
    decodeTableWord 16 0b0_00001000 = some .rdInit ∧ decodeTableWord 16 0b0_00001100 = some .rdXorout ∧
    decodeTableWord 16 0b0_00010000 = some .rdAcc ∧ decodeTableWord 16 0b0_00010100 = some .rdResult ∧
    decodeTableWord 16 0b0_00011000 = some .rdCmd ∧ decodeTableWord 16 0b0_00011100 = some .rdStatus ∧
    decodeTableWord 16 0b0_00100000 = some .rdRstart ∧ decodeTableWord 16 0b0_00100100 = some .rdRend ∧
    decodeTableWord 16 0b0_00101000 = some .rdTarget ∧ decodeTableWord 16 0b0_00101100 = some .rdImgLow ∧
    decodeTableWord 16 0b0_00110000 = some .rdImgHigh ∧ decodeTableWord 16 0b0_00110100 = some .rdTblIdx ∧
    decodeTableWord 16 0b0_00111000 = some .rdTblData := by decide

theorem test_decode_writes :
    decode (.bus ⟨.write, 0x00, 4, 0x26⟩) = .ok (.wrCtrl 0x26) ∧
    decode (.bus ⟨.write, 0x04, 4, 0x04C11DB7⟩) = .ok (.wrPoly 0x04C11DB7) ∧
    decode (.bus ⟨.write, 0x08, 4, 0xFFFFFFFF⟩) = .ok (.wrInit 0xFFFFFFFF) ∧
    decode (.bus ⟨.write, 0x0C, 4, 0xFF⟩) = .ok (.wrXorout 0xFF) ∧
    decode (.bus ⟨.write, 0x10, 4, 0x1234⟩) = .ok (.wrAcc 0x1234) ∧
    decode (.bus ⟨.write, 0x14, 4, 1⟩) = .ok (.wrResult 1) ∧
    decode (.bus ⟨.write, 0x18, 4, 7⟩) = .ok (.wrCmd 7) ∧
    decode (.bus ⟨.write, 0x1C, 4, 0x1F0⟩) = .ok (.wrStatus 0x1F0) ∧
    decode (.bus ⟨.write, 0x20, 4, 0xF0⟩) = .ok (.wrRstart 0xF0) ∧
    decode (.bus ⟨.write, 0x24, 4, 0x108⟩) = .ok (.wrRend 0x108) ∧
    decode (.bus ⟨.write, 0x28, 4, 0x109⟩) = .ok (.wrTarget 0x109) ∧
    decode (.bus ⟨.write, 0x2C, 4, 0x100⟩) = .ok (.wrImgLow 0x100) ∧
    decode (.bus ⟨.write, 0x30, 4, 0x10C⟩) = .ok (.wrImgHigh 0x10C) ∧
    decode (.bus ⟨.write, 0x34, 4, 1⟩) = .ok (.wrTblIdx 1) ∧
    decode (.bus ⟨.write, 0x38, 4, 1⟩) = .ok (.wrTblData 1) :=
  ⟨rfl, rfl, rfl, rfl, rfl, rfl, rfl, rfl, rfl, rfl, rfl, rfl, rfl, rfl, rfl⟩

/-- The table's keys for the writes: `(1 << 8) OR offset`, data 0. -/
theorem test_decode_write_keys :
    decodeTableWord 16 0x100 = some (.wrCtrl 0) ∧ decodeTableWord 16 0x118 = some (.wrCmd 0) ∧
    decodeTableWord 16 0x138 = some (.wrTblData 0) ∧ decodeTableWord 16 0x13C = none ∧
    decodeTableWord 32 0x00000009 = none ∧ decodeTableWord 32 0x00013103 = none := by decide

/-! The datapath -/

/-- The examples of R10. -/
theorem test_reflect :
    reflect .w16 0x1021 = 0x8408 ∧ reflect .w32 0x04C11DB7 = 0xEDB88320 ∧ reflect .w8 0x31 = 0x8C ∧
    reflect .w16 0x1234 = 0x2C48 := by decide +kernel

/-- TB1, TB3, TB5, TB6, TB9, TB10 at 0x80 and 0xFF. -/
theorem test_table_entries :
    tblEntry .w8 false 0x07 0xFF = 0xF3 ∧ tblEntry .w8 true 0x31 0xFF = 0x35 ∧
    tblEntry .w16 false 0x1021 0x80 = 0x9188 ∧ tblEntry .w16 true 0x8005 0xFF = 0x4040 ∧
    tblEntry .w32 false 0x04C11DB7 0x80 = 0x690CE0EE ∧ tblEntry .w32 true 0x04C11DB7 0xFF = 0x2D02EF8D := by
  decide +kernel

/-- FO1, FO3, FO5, FO6, FO9. -/
theorem test_fold_values :
    crcFold .w16 false (tableOf (tblEntry .w16 false 0x1021)) 0 0x31 = 0x2672 ∧
    crcFold .w8 false (tableOf (tblEntry .w8 false 0x07)) 0 0x01 = 0x07 ∧
    crcFold .w16 true (tableOf (tblEntry .w16 true 0x8005)) 0 0x01 = 0xC0C1 ∧
    crcFold .w32 true (tableOf (tblEntry .w32 true 0x04C11DB7)) 0xFFFFFFFF 0x00 = 0x2DFD1072 ∧
    crcFold .w32 true (tableOf (tblEntry .w32 true 0x04C11DB7)) 0x1BFE5A84 0x55 = 0xF1CF1C18 := by decide +kernel

/-- W1, the source's own vector: CRC-16/CCITT over "123456789" is 0x31C3. -/
theorem test_source_vector :
    [0x31, 0x32, 0x33, 0x34, 0x35, 0x36, 0x37, 0x38, 0x39].foldl
      (crcFold .w16 false (tableOf (tblEntry .w16 false 0x1021))) 0 = 0x31C3 := by decide +kernel

/-- The reference of R166 on the source's vector, and on CRC-32 (section 2.5). -/
theorem test_reference :
    Reference.crc (0x1021 : BitVec 16) 0 0 false false [0x31, 0x32, 0x33, 0x34, 0x35, 0x36, 0x37, 0x38, 0x39] = 0x31C3 ∧
    Reference.crc (0x04C11DB7 : BitVec 32) 0xFFFFFFFF 0xFFFFFFFF true true [0x61] = 0xE8B7BE43 := by decide +kernel

/-! Steps -/

/-- A field of the next state, none if the machine stops. -/
def after {α : Type} (o : Outcome) (f : State → α) : Option α :=
  match o with
  | .next s => some (f s)
  | _ => none

/-- "12" at 0 and 1 and a pad byte at 2; CRC8 with POLY 7, table built, accumulator started, result final. -/
def crc8 : State :=
  { State.reset with
    poly := 0x07, tbl := tableOf (tblEntry .w8 false 0x07), status := 0x0E, acc := 0x97, result := 0xF4, image := [(0, 0x31), (1, 0x32), (2, 0xFF)]
    imgHigh := 2, target := 2, rend := 1 }

/-- Four bytes 0xEE at the top of the address space, a 32-bit result (ST9, ST10). -/
def top : State :=
  { State.reset with
    ctrl := 0x02, status := 0x08, result := 0xCBF43926, imgLow := 0xFFFFFFFC, imgHigh := 0xFFFFFFFF, target := 0xFFFFFFFC
    image := [(0xFFFFFFFC, 0xEE), (0xFFFFFFFD, 0xEE), (0xFFFFFFFE, 0xEE), (0xFFFFFFFF, 0xEE)] }

/-- The setting of CO4, with TARGET inside the range. -/
def overlap : State :=
  { State.reset with
    ctrl := 0x01, poly := 0x1021, imgLow := 0x100, imgHigh := 0x108, target := 0x107
    image := [(0x100, 0x31), (0x101, 0x32), (0x102, 0x33), (0x103, 0x34), (0x104, 0x35), (0x105, 0x36), (0x106, 0x37),
      (0x107, 0x38), (0x108, 0x39)] }

/-- BA1. -/
theorem test_wrCtrl_from_reset : after (exec (.wrCtrl 0xFFFFFFD5) State.reset) (fun t => (t.ctrl, t.status)) = some (0x15, 0) := by
  decide
/-- BA2: a change of ENDIAN and RANGE_EN keeps the validity bits. -/
theorem test_wrCtrl_keeps : after (exec (.wrCtrl 0x38) crc8) (fun t => (t.ctrl, t.status)) = some (0x38, 0x00E) := by decide
/-- BA3: a change of REFIN clears them. -/
theorem test_wrCtrl_clears : after (exec (.wrCtrl 0x04) crc8) (fun t => (t.ctrl, t.status)) = some (0x04, 0x000) := by decide
/-- BA4: the value already held. -/
theorem test_wrPoly : after (exec (.wrPoly 0x07) crc8) (fun t => (t.poly, t.status)) = some (0x07, 0x00C) := by decide
/-- BA6. -/
theorem test_wrStatus :
    after (exec (.wrStatus 0xA0) { crc8 with status := 0x1FE }) (fun t => t.status) = some 0x15E := by decide
/-- BA9. -/
theorem test_wrAcc_ignored : after (exec (.wrAcc 0xDEADBEEF) crc8) (fun t => t.acc) = some 0x97 := by decide
/-- BA10. -/
theorem test_wrTblIdx : after (exec (.wrTblIdx 0x1FF) State.reset) (fun t => t.tblIdx) = some 0xFF := by decide
/-- TB1 read back through TBL_DATA. -/
theorem test_rdTblData :
    after (exec .rdTblData { crc8 with tblIdx := 0x80 }) (fun t => t.readData) = some (some 0x89) := by decide +kernel
/-- BA16: an invalid word. -/
theorem test_wrCmd_invalid : after (exec (.wrCmd 0x08) crc8) (fun t => t.status) = some 0x02E := by decide
/-- TB13. -/
theorem test_build_without_width : after (exec .build { crc8 with ctrl := 3 }) (fun t => t.status) = some 0x04E := by decide
/-- SA2 and SA3. -/
theorem test_start_reflected :
    after (exec .start { State.reset with ctrl := 0x05, init := 0x1234 }) (fun t => (t.acc, t.status)) = some (0x2C48, 0x004) ∧
    after (exec .start { crc8 with ctrl := 0x04, init := 0x80 }) (fun t => (t.acc, t.status)) = some (0x01, 0x006) := by
  decide +kernel
/-- The second FOLD of the CRC-8 trace: 97 then 72. -/
theorem test_fold : after (exec (.fold 0x32) crc8) (fun t => (t.acc, t.status)) = some (0x72, 0x00E) := by decide +kernel
/-- FO14: ERR_CFG before ERR_SEQ. -/
theorem test_fold_priority :
    after (exec (.fold 0x12) { State.reset with ctrl := 3 }) (fun t => t.status) = some 0x040 := by decide
/-- FI1. -/
theorem test_final :
    after (exec .final { State.reset with ctrl := 2, status := 4, acc := 0x340BC6D9, xorout := 0xFFFFFFFF })
      (fun t => (t.result, t.acc, t.status)) = some (0xCBF43926, 0x340BC6D9, 0x00C) := by decide
/-- The CRC-8 trace from a fresh accumulator over a clipped range: "12" gives 72, and CLIPPED is set. -/
theorem test_foldRange_clips :
    after (exec .foldRange { crc8 with ctrl := 0x20, acc := 0, imgHigh := 1, rend := 9 }) (fun t => (t.acc, t.status))
      = some (0x72, 0x01E) := by decide +kernel
/-- As FR5: a range above the image folds nothing and is reported. -/
theorem test_foldRange_empty :
    after (exec .foldRange { crc8 with ctrl := 0x20, rstart := 7, rend := 12 }) (fun t => (t.acc, t.status))
      = some (0x97, 0x01E) := by decide +kernel
/-- ST9 and ST2's order: little-endian and big-endian at the top of the address space. -/
theorem test_store :
    after (exec .store top) (fun t => t.image) =
      some [(0xFFFFFFFC, 0x26), (0xFFFFFFFD, 0x39), (0xFFFFFFFE, 0xF4), (0xFFFFFFFF, 0xCB)] ∧
    after (exec .store { top with ctrl := 0x12 }) (fun t => t.image) =
      some [(0xFFFFFFFC, 0xCB), (0xFFFFFFFD, 0xF4), (0xFFFFFFFE, 0x39), (0xFFFFFFFF, 0x26)] := by decide +kernel
/-- ST10: no wrap past 0xFFFFFFFF. -/
theorem test_store_no_wrap :
    after (exec .store { top with target := 0xFFFFFFFD }) (fun t => (t.status, decide (t.image = top.image))) = some (0x108, true) := by
  decide +kernel
/-- CO4: the CRC is taken before the store. -/
theorem test_compute_overlap :
    after (exec .compute overlap) (fun t => (t.result, t.status, t.image.read 0x107, t.image.read 0x108)) =
      some (0x31C3, 0x00E, some 0xC3, some 0x31) := by decide +kernel
/-- CO5: a rejected COMPUTE builds no table. -/
theorem test_compute_rejected :
    after (exec .compute { overlap with target := 0x108 }) (fun t => t.status) = some 0x100 := by decide
/-- BA13 and BA15 through a step; U4: COMPUTE right after reset finds no buffer at address 0 and is stuck. -/
theorem test_step_stops :
    step { State.reset with pending := [.request (.bus ⟨.read, 0x3C, 4, 0⟩)] } = .fault .busError ∧
    step { State.reset with pending := [.request (.bus ⟨.read, 0x1C, 2, 0⟩)] } = .fault .busError ∧
    step (State.reset.withFetchWord 32 0x07) = .fault .outsideBuffer := ⟨rfl, rfl, rfl⟩
/-- `cmd BUILD` as the first access after reset. -/
theorem test_step_build : after (step (State.reset.withFetchWord 32 0x01)) (fun t => t.status) = some 0x002 := by decide

/-! Witnesses: a state and operands that meet the hypotheses of each statement that has some -/

theorem crc8_windowOwned : windowOwned crc8 := by
  intro a h1 h2
  have h3 : a ≤ 2 := h2
  interval_cases a <;> rfl

theorem crc8_rangeBytes : rangeBytes crc8 [0x31, 0x32, 0xFF] := by
  refine ⟨rfl, fun k hk => ?_⟩
  have h3 : k < 3 := hk
  interval_cases k <;> rfl

theorem crc8_inv : crc8.Inv where
  image_wf := by decide
  ctrl_reserved := by decide
  status_reserved := by decide
  invalid_width := by decide
  table_valid w h _ := by
    have hw : w = .w8 := (Option.some.inj h).symm
    subst hw; rfl
  acc_valid w h _ := by
    have hw : w = .w8 := (Option.some.inj h).symm
    subst hw; decide
  result_valid w h _ := by
    have hw : w = .w8 := (Option.some.inj h).symm
    subst hw; decide

/-- ResetZeroesEveryRegister, the step's clause. -/
theorem witness_reset_pending : ({ crc8 with pending := [.reset] } : State).pending = .reset :: [] := rfl

/-- StepTakesTheNextHostAction: a step with an action to take, and the idle step. -/
theorem witness_step_next : (∃ t, step { crc8 with pending := [lineCmd .nop, .reset] } = .next t ∧ t.pending = [.reset]) ∧
    step crc8 = .next crc8 ∧ crc8.pending = [] := ⟨⟨_, rfl, rfl⟩, rfl, rfl⟩

/-- EveryStepKeepsTheInvariant, BusyReadsZero, AccessWhileBusyFaults (second clause), StorageReadsReturnTheRegister. -/
theorem witness_inv_step : crc8.Inv ∧ ∃ t, step crc8 = .next t := ⟨crc8_inv, _, rfl⟩

/-- DecodeAndEncodeAgree: each converse clause. -/
theorem witness_decodes :
    decode (.cmd 0x0000FF03) = .ok (.fold 0xFF) ∧
    decode (.bus ⟨.write, 0x38, 4, 5⟩) = .ok (.wrTblData 5) ∧
    decode (.bus ⟨.read, 0x00, 4, 5⟩) = .ok .rdCtrl := ⟨rfl, rfl, rfl⟩

/-- InvalidCommandWordOnlySetsErrCmd: each way to be invalid, at its boundary. -/
theorem witness_invalid_words :
    decodeCommand 0x00010000 = .error .nonzeroRsvd ∧ decodeCommand 0x00000008 = .error .reservedOpcode ∧
    decodeCommand 0x00000107 = .error .nonzeroArg ∧ flag .busy crc8 = false := ⟨rfl, rfl, rfl, rfl⟩

/-- DecodeCommandFollowsTheOpcodeMap: the field hypotheses at the last command. -/
theorem witness_fields : (0x00000007 : Word).extractLsb' 16 16 = 0 ∧ (0x00000007 : Word).extractLsb' 8 8 = 0 := by decide

/-- StepRunsTheDecodedInstruction, both ways past BUSY; PlacedTableWordRunsNext; CmdLineIsTheWriteOfCmd has none. -/
theorem witness_step_runs :
    decode (busRead .acc) = .ok .rdAcc ∧ flag .busy crc8 = false ∧ decode (busRead .status) = .ok .rdStatus ∧
    decodeTableWord 32 0x00000003 = some (.fold 0) := ⟨rfl, rfl, rfl, rfl⟩

/-- IllFormedTransactionIsABusError: each clause at its boundary. -/
theorem witness_ill_formed :
    (⟨.read, 0x1C, 3, 0⟩ : Transaction).size ≠ 4 ∧ (⟨.read, 0x37, 4, 0⟩ : Transaction).offset % 4 ≠ 0 ∧
    0x38 < (⟨.read, 0x3C, 4, 0⟩ : Transaction).offset ∧ flag .busy crc8 = false := by decide

/-- AccessWhileBusyFaults: a state with BUSY = 1 and an access that is no read of STATUS. -/
theorem witness_busy : flag .busy { crc8 with status := 1 } = true ∧ decode (busRead .ctrl) = .ok .rdCtrl ∧
    (Except.ok Instr.rdCtrl : Except DecodeError Instr) ≠ .ok .rdStatus := ⟨rfl, rfl, nofun⟩

/-- IdleStepChangesNothing. -/
theorem witness_idle : crc8.pending = [] := rfl

/-- HostImageReadSeesTheLastWrite: a byte of the buffer and an address outside it. -/
theorem witness_image_read : crc8.image.read (2 : Word).toNat = some 0xFF ∧ crc8.image.read (3 : Word).toNat = none ∧
    flag .busy crc8 = false := ⟨rfl, rfl, rfl⟩

/-- ReadOfTblDataReturnsTheSelectedEntry, second clause; EngineComputesTheReferenceCrc. -/
theorem witness_crc32 : crcWidth (0x06 : Word) = some .w32 ∧ refin (0x06 : Word) = true := by decide

/-- CtrlWriteInvalidatesOnWidthOrRefin, second clause; StatusWriteClearsNamedStickyBits, third. -/
theorem witness_ctrl_status :
    crc8.ctrl &&& 0xFFFFFFC0 = 0 ∧ ({ crc8 with status := 0x26 } : State).status = 0x00000026 := by decide

/-- InvertedBoundsTakeEffectAtTheCommand: a REND just below RSTART, an IMG_LOW just above IMG_HIGH. -/
theorem witness_inverted_bounds :
    let s := { crc8 with ctrl := 0x20, rstart := 1 }
    crcWidth s.ctrl = some .w8 ∧ flag .tableValid s = true ∧ flag .accValid s = true ∧ flag .resultValid s = true ∧
    rangeEn s.ctrl = true ∧ s.imgLow.toNat ≤ s.imgHigh.toNat ∧ (0 : Word).toNat < s.rstart.toNat ∧
    s.imgHigh.toNat < (3 : Word).toNat := by decide

/-- WriteOfCmdExecutesTheCommand, FoldUpdatesTheAccumulator (normal, W = 8), FinalMasksTheXoredAccumulator. -/
theorem witness_ready :
    crcWidth crc8.ctrl = some .w8 ∧ flag .tableValid crc8 = true ∧ flag .accValid crc8 = true ∧
    flag .resultValid crc8 = true ∧ refin crc8.ctrl = false ∧ crc8.acc.toNat < 256 ∧
    decodeCommand 0x00000001 = .ok .build := by decide

/-- FoldUpdatesTheAccumulator: the reflected variant, and a zero table. -/
theorem witness_reflected_zero_table :
    let s := { crc8 with ctrl := 0x04, poly := 0, tbl := tableOf fun _ => 0 }
    refin s.ctrl = true ∧ crcWidth s.ctrl = some .w8 ∧ ∀ i, tableAt s.tbl i = 0 :=
  ⟨by decide, by decide, fun i => tableAt_tableOf _ i⟩

/-- The rejections of BUILD, START, FOLD, FOLDRANGE, FINAL, STORE and COMPUTE: no width; nothing valid; no image. -/
theorem witness_rejections :
    crcWidth (3 : Word) = none ∧ (3 : Word).extractLsb' 0 2 = 3 ∧
    crcWidth State.reset.ctrl ≠ none ∧ State.reset.ctrl.extractLsb' 0 2 ≠ 3 ∧ flag .tableValid State.reset = false ∧
    flag .accValid State.reset = false ∧ flag .resultValid State.reset = false ∧
    ({ crc8 with imgLow := 3 } : State).imgHigh.toNat < ({ crc8 with imgLow := 3 } : State).imgLow.toNat := by decide

/-- NopChangesNothing, second clause, and BuildFillsTheTable, third (with crc8_inv). -/
theorem witness_nop_build : (0x00000100 : Word).extractLsb' 0 8 = 0 ∧ (0x00000100 : Word) ≠ 0 ∧
    flag .tableValid crc8 = true := by decide

/-- FoldRangeFoldsTheRange and FoldRangeEqualsItsFolds, first clause. -/
theorem witness_foldRange : crcWidth crc8.ctrl = some .w8 ∧ flag .tableValid crc8 = true ∧ flag .accValid crc8 = true ∧
    crc8.imgLow.toNat ≤ crc8.imgHigh.toNat ∧ rangeBytes crc8 [0x31, 0x32, 0xFF] :=
  ⟨rfl, rfl, rfl, by decide, crc8_rangeBytes⟩

/-- EffectiveRangeStaysInTheImage: wholly above, wholly below and reversed, each at its boundary. -/
theorem witness_ranges :
    (0x20 : Word).getLsbD 5 = true ∧ (0x00 : Word).getLsbD 5 = false ∧
    (let s := { crc8 with rstart := 3, rend := 3 }; s.imgHigh.toNat < s.rstart.toNat ∧ s.rstart.toNat ≤ s.rend.toNat) ∧
    (let s := { crc8 with imgLow := 1, rstart := 0, rend := 0 }; s.rend.toNat < s.imgLow.toNat ∧ s.rstart.toNat ≤ s.rend.toNat) ∧
    (let s := { crc8 with rstart := 2, rend := 1 }; s.rend.toNat < s.rstart.toNat) := by decide

/-- StoreWritesTheResultField, ComputeIsItsFiveCommands and ComputeStoresTheCrcOfTheRangeAsIssued: the field ends at IMG_HIGH,
and lies inside the range. -/
theorem witness_store : crcWidth crc8.ctrl = some .w8 ∧ flag .resultValid crc8 = true ∧
    crc8.imgLow.toNat ≤ crc8.target.toNat ∧ crc8.target.toNat + widthBytes .w8 - 1 ≤ crc8.imgHigh.toNat ∧
    (∀ k < widthBytes .w8, (crc8.image.read (crc8.target.toNat + k)).isSome = true) ∧ windowOwned crc8 ∧
    rangeBytes crc8 [0x31, 0x32, 0xFF] :=
  ⟨rfl, rfl, by decide, by decide, by decide, crc8_windowOwned, crc8_rangeBytes⟩

/-- The bounds STORE and COMPUTE reject: one byte below IMG_LOW, one past IMG_HIGH, and no image. -/
theorem witness_store_bounds :
    ({ crc8 with imgLow := 1, target := 0 } : State).target.toNat < ({ crc8 with imgLow := 1, target := 0 } : State).imgLow.toNat ∧
    ({ crc8 with target := 3 } : State).imgHigh.toNat < ({ crc8 with target := 3 } : State).target.toNat + widthBytes .w8 - 1 ∧
    ({ crc8 with imgLow := 3 } : State).imgHigh.toNat < ({ crc8 with imgLow := 3 } : State).imgLow.toNat := by decide

/-- ComputeIsIdempotentOffTheRange: the range 0 to 1, the target 2. -/
theorem witness_idempotent :
    let s := { crc8 with ctrl := 0x20 }
    s.image.wf ∧ crcWidth s.ctrl = some .w8 ∧ (∃ t, exec .compute s = .next t) ∧
      ∀ a, effStart s ≤ a → a ≤ effEnd s → ¬ inTargetField .w8 s a := by
  refine ⟨by decide, rfl, ⟨_, rfl⟩, fun a _ h2 h3 => ?_⟩
  have h4 : a ≤ 1 := h2
  have h5 : 2 ≤ a := h3.1
  omega

/-- RejectedCommandSetsOnlyItsFirstError: a state where a later check would fail too, and one where none does. -/
theorem witness_first_error :
    firstError .compute { crc8 with ctrl := 3, imgLow := 3 } = some .errCfg ∧ firstError .store State.reset = some .errSeq ∧
    firstError .compute { crc8 with target := 3 } = some .errAddr ∧ firstError .compute crc8 = none ∧
    ∃ t, exec .compute crc8 = .next t := ⟨by decide, by decide, by decide, by decide, _, rfl⟩

/-- InvalidInputRaisesErrSeq, last clause; OnlyBuildWritesTheTable, EngineWritesOnlyTheTargetField and
CommandsLeaveTheConfiguration's last clause: COMPUTE answers a state and the target byte changes. -/
theorem witness_compute_changes : ∃ t, exec .compute crc8 = .next t ∧ t.image.read 2 ≠ crc8.image.read 2 :=
  ⟨_, rfl, by decide +kernel⟩

/-- StickyBitStaysUntilWrittenOrReset: a step that keeps the bit. -/
theorem witness_sticky : flag .clipped { crc8 with status := 0x10, pending := [lineCmd .nop] } = true ∧
    ∃ t, step { crc8 with status := 0x10, pending := [lineCmd .nop] } = .next t := ⟨rfl, _, rfl⟩

/-- EveryInstructionCompletesInsideTheBuffer. -/
theorem witness_windowOwned : windowOwned crc8 := crc8_windowOwned

/-- CommandsLeaveTheConfiguration: the writes of CTRL and POLY, each clearing what was valid. -/
theorem witness_config_writes :
    after (exec (.wrCtrl 1) crc8) (fun t => (t.ctrl, t.status)) = some (1, 0) ∧
    after (exec (.wrPoly 1) crc8) (fun t => (t.poly, t.status)) = some (1, 0x0C) := by decide

/-- ConfigurationChangeInvalidates, the clauses on CTRL: WIDTH changes to 16, then BUILD alone is run again. -/
theorem witness_ctrl_change : ∃ t u, exec (.wrCtrl 1) crc8 = .next t ∧ t.ctrl.extractLsb' 0 3 ≠ crc8.ctrl.extractLsb' 0 3 ∧
    t.ctrl.extractLsb' 0 2 ≠ 3 ∧ execAll [.build] t = .next u ∧ u.ctrl.extractLsb' 0 2 ≠ 3 ∧
    ∀ i ∈ [Instr.build], ¬ redoes .start i ∧ ¬ redoes .final i :=
  ⟨_, _, rfl, by decide, by decide, rfl, by decide, by simp [redoes, runsCommand, Command.toInstr]⟩

/-- ConfigurationChangeInvalidates, the clauses on POLY: POLY is written, then START is run again but not BUILD. -/
theorem witness_poly_change : ∃ t u, exec (.wrPoly 1) crc8 = .next t ∧ t.ctrl.extractLsb' 0 2 ≠ 3 ∧
    flag .accValid crc8 = true ∧ execAll [.start] t = .next u ∧ u.ctrl.extractLsb' 0 2 ≠ 3 ∧
    ∀ i ∈ [Instr.start], ¬ redoes .build i :=
  ⟨_, _, rfl, by decide, rfl, rfl, by decide, by simp [redoes, runsCommand, Command.toInstr]⟩

/-- ConfigurationChangeInvalidates on the machine: STORE is still rejected after BUILD and START, and the whole sequence redone
runs through to FINAL with no error. -/
theorem test_config_change :
    after (execAll [.wrCtrl 4, .build, .start, .store] crc8) (fun t => t.status) = some 0x086 ∧
    after (execAll [.wrCtrl 4, .build, .start, .fold 0x31, .final] crc8) (fun t => t.status) = some 0x00E := by decide +kernel

/-- PseudoInstructionsDoWhatTheyName: a state whose list begins with each expansion, and one ready to fold (witness_ready). -/
theorem witness_pseudo (l : List HostAction) : flag .busy { crc8 with pending := l } = false ∧
    ({ crc8 with pending := pseudoCfg .w32 true false false true } : State).pending = pseudoCfg .w32 true false false true ++ [] ∧
    ({ crc8 with pending := pseudoParams 7 0 0xFF } : State).pending = pseudoParams 7 0 0xFF ++ [] ∧
    ({ crc8 with pending := pseudoImage 1 0 } : State).pending = pseudoImage 1 0 ++ [] ∧
    ({ crc8 with pending := pseudoRange 1 0 } : State).pending = pseudoRange 1 0 ++ [] ∧
    ({ crc8 with pending := pseudoFolds [0x31, 0x32] } : State).pending = pseudoFolds [0x31, 0x32] ++ [] ∧
    ({ crc8 with pending := pseudoClrstat } : State).pending = pseudoClrstat ++ [] :=
  ⟨(rfl : flag .busy crc8 = false), rfl, rfl, rfl, rfl, rfl, rfl⟩

/-- `folds "12"` from a fresh accumulator, two steps: the CRC-8 trace's 72. -/
theorem test_pseudo_folds :
    after (runSteps 2 { crc8 with acc := 0, pending := pseudoFolds [0x31, 0x32] }) (fun t => (t.acc, t.pending)) =
      some (0x72, []) := by decide +kernel

/-- TableEntriesAreWidthBounded: a polynomial with no bit in the width, and TB2's against TB1's. -/
theorem witness_polynomials : (0x12345600 : Word) &&& widthMask .w8 = 0 ∧
    (0x12345607 : Word) &&& widthMask .w8 = 0x07 &&& widthMask .w8 := by decide

/-- ConfigurationReadsBackAsWritten: the last pair of the statement's list. -/
theorem witness_pair : let d : Word := 0xFFFFFFFF
    ((Instr.wrImgHigh d, Instr.rdImgHigh) : Instr × Instr) ∈
      [(.wrPoly d, .rdPoly), (.wrInit d, .rdInit), (.wrXorout d, .rdXorout), (.wrRstart d, .rdRstart),
        (.wrRend d, .rdRend), (.wrTarget d, .rdTarget), (.wrImgLow d, .rdImgLow), (.wrImgHigh d, .rdImgHigh)] := by decide

end Sys2Proof.Tests
end

section
/-! SUPPORT. Values of a width: every operation of the datapath answers one. -/

namespace Sys2Proof.Machine

/-- `times` keeps what its step keeps. -/
theorem times_induction {P : Word → Prop} {f : Word → Word} (hf : ∀ c, P c → P (f c)) :
    ∀ {n : Nat} {c : Word}, P c → P (times n f c)
  | 0, _, hc => hc
  | n + 1, c, hc => times_induction hf (n := n) (hf c hc)

theorem and_widthMask_lt (w : CrcWidth) (v : Word) : (v &&& widthMask w).toNat < 2 ^ widthBits w := by
  rw [BitVec.toNat_and]
  exact Nat.and_lt_two_pow _ (by cases w <;> decide)

theorem xor_lt_width {w : CrcWidth} {u v : Word} (hu : u.toNat < 2 ^ widthBits w) (hv : v.toNat < 2 ^ widthBits w) :
    (u ^^^ v).toNat < 2 ^ widthBits w := by
  rw [BitVec.toNat_xor]
  exact Nat.xor_lt_two_pow hu hv

theorem shiftRight_lt_width {w : CrcWidth} {v : Word} (n : Nat) (hv : v.toNat < 2 ^ widthBits w) :
    (v >>> n).toNat < 2 ^ widthBits w := by
  rw [BitVec.toNat_ushiftRight]
  exact Nat.lt_of_le_of_lt (Nat.shiftRight_le _ _) hv

theorem reflect_lt (w : CrcWidth) (v : Word) : (reflect w v).toNat < 2 ^ widthBits w := by
  have hle : widthBits w ≤ 32 := by cases w <;> decide
  rw [reflect, BitVec.toNat_setWidth_of_le hle]
  exact BitVec.isLt _

theorem startValue_lt (w : CrcWidth) (s : State) : (startValue w s).toNat < 2 ^ widthBits w := by
  unfold startValue
  split
  · exact reflect_lt w _
  · exact and_widthMask_lt w _

theorem normalStep_lt {w : CrcWidth} {p : Word} (hp : p.toNat < 2 ^ widthBits w) (c : Word) :
    (normalStep w p c).toNat < 2 ^ widthBits w := by
  unfold normalStep
  split
  · exact xor_lt_width (and_widthMask_lt w _) hp
  · exact and_widthMask_lt w _

theorem reflectedStep_lt {w : CrcWidth} {pr c : Word} (hp : pr.toNat < 2 ^ widthBits w)
    (hc : c.toNat < 2 ^ widthBits w) : (reflectedStep pr c).toNat < 2 ^ widthBits w := by
  unfold reflectedStep
  split
  · exact xor_lt_width (shiftRight_lt_width 1 hc) hp
  · exact shiftRight_lt_width 1 hc

/-- The values the two constructions start from: a byte at the bottom of the width, and one at its top (R141). -/
theorem byte_lt_width (w : CrcWidth) (i : Byte) :
    (i.setWidth 32).toNat < 2 ^ widthBits w ∧ (i.setWidth 32 <<< (widthBits w - 8)).toNat < 2 ^ widthBits w := by
  have hi := i.isLt
  cases w <;> simp [BitVec.toNat_shiftLeft, Nat.shiftLeft_eq] <;> omega

/-- An entry of the table is a value of its width, whatever the polynomial. -/
theorem tblEntry_lt (w : CrcWidth) (ref : Bool) (poly : Word) (i : Byte) :
    (tblEntry w ref poly i).toNat < 2 ^ widthBits w := by
  obtain ⟨hlow, hhigh⟩ := byte_lt_width w i
  unfold tblEntry
  cases ref with
  | true =>
    exact times_induction (P := fun c => c.toNat < 2 ^ widthBits w) (fun _ => reflectedStep_lt (reflect_lt w _)) hlow
  | false =>
    exact times_induction (P := fun c => c.toNat < 2 ^ widthBits w)
      (fun c _ => normalStep_lt (and_widthMask_lt w poly) c) hhigh

/-- One fold through a built table keeps the accumulator a value of the width. -/
theorem crcFold_lt {w : CrcWidth} {acc : Word} (ref : Bool) (poly : Word) (b : Byte)
    (ha : acc.toNat < 2 ^ widthBits w) :
    (crcFold w ref (tableOf (tblEntry w ref poly)) acc b).toNat < 2 ^ widthBits w := by
  unfold crcFold
  split <;> rw [tableAt_tableOf]
  · exact xor_lt_width (shiftRight_lt_width 8 ha) (tblEntry_lt ..)
  · exact xor_lt_width (and_widthMask_lt w _) (tblEntry_lt ..)

/-- A fold of any message through a built table keeps the accumulator a value of the width. -/
theorem foldl_crcFold_lt {w : CrcWidth} (ref : Bool) (poly : Word) (bytes : List Byte) {acc : Word}
    (ha : acc.toNat < 2 ^ widthBits w) :
    (bytes.foldl (crcFold w ref (tableOf (tblEntry w ref poly))) acc).toNat < 2 ^ widthBits w := by
  induction bytes generalizing acc with
  | nil => exact ha
  | cons b bytes ih => exact ih (crcFold_lt ref poly b ha)

end Sys2Proof.Machine
end

section
/-! SUPPORT. What a command and what an instruction can do: one inversion lemma for each, split once along the constructors. -/

namespace Sys2Proof.Machine

/-- What a command does once all its checks have passed at the width `w` (R221): the body that its meaning names. -/
def commandBody (w : CrcWidth) (s : State) : Command → Except Fault State
  | .nop => .ok s
  | .build => .ok (buildBody w s)
  | .start => .ok (startBody w s)
  | .fold b => .ok (foldBody w b s)
  | .final => .ok (finalBody w s)
  | .foldRange => foldRangeBody w s
  | .store => storeBody w s
  | .compute => computeBody w s

/-- If a command answers a next state, it was NOP, or its first failing check rejected it, or every check passed and its body
ran (R200, R221, R228). -/
theorem exec_command_cases {c : Command} {s t : State} (h : exec c.toInstr s = .next t) :
    (c = .nop ∧ t = s) ∨ (∃ e, firstError c s = some e ∧ t = setFlag e s) ∨
      ∃ w, crcWidth s.ctrl = some w ∧ firstError c s = none ∧ commandBody w s c = .ok t := by
  cases c with
  | nop => cases h; exact .inl ⟨rfl, rfl⟩
  | build =>
    rcases execBuild_cases h with ⟨hw, rfl⟩ | ⟨w, hw, rfl⟩
    · exact .inr (.inl ⟨_, by simp [firstError, hw], rfl⟩)
    · exact .inr (.inr ⟨w, hw, by simp [firstError, hw], rfl⟩)
  | start =>
    rcases execStart_cases h with ⟨hw, rfl⟩ | ⟨w, hw, rfl⟩
    · exact .inr (.inl ⟨_, by simp [firstError, hw], rfl⟩)
    · exact .inr (.inr ⟨w, hw, by simp [firstError, hw], rfl⟩)
  | fold b =>
    rcases execFold_cases h with ⟨hw, rfl⟩ | ⟨w, hw, ⟨hf, rfl⟩ | ⟨hf, rfl⟩⟩
    · exact .inr (.inl ⟨_, by simp [firstError, hw], rfl⟩)
    · exact .inr (.inl ⟨_, by simp [firstError, hw, hf], rfl⟩)
    · exact .inr (.inr ⟨w, hw, by simp [firstError, hw, hf], rfl⟩)
  | final =>
    rcases execFinal_cases h with ⟨hw, rfl⟩ | ⟨w, hw, ⟨hf, rfl⟩ | ⟨hf, rfl⟩⟩
    · exact .inr (.inl ⟨_, by simp [firstError, hw], rfl⟩)
    · exact .inr (.inl ⟨_, by simp [firstError, hw, hf], rfl⟩)
    · exact .inr (.inr ⟨w, hw, by simp [firstError, hw, hf], rfl⟩)
  | foldRange =>
    rcases execFoldRange_cases h with ⟨hw, rfl⟩ | ⟨w, hw, ⟨hf, rfl⟩ | ⟨hf, ⟨hi, rfl⟩ | ⟨hi, ht⟩⟩⟩
    · exact .inr (.inl ⟨_, by simp [firstError, hw], rfl⟩)
    · exact .inr (.inl ⟨_, by simp [firstError, hw, hf], rfl⟩)
    · exact .inr (.inl ⟨_, by simp_all [firstError, noImage], rfl⟩)
    · exact .inr (.inr ⟨w, hw, by simp_all [firstError, noImage], ht⟩)
  | store =>
    rcases execStore_cases h with ⟨hw, rfl⟩ | ⟨w, hw, ⟨hf, rfl⟩ | ⟨hf, ⟨hi, rfl⟩ | ⟨hi, ht⟩⟩⟩
    · exact .inr (.inl ⟨_, by simp [firstError, hw], rfl⟩)
    · exact .inr (.inl ⟨_, by simp [firstError, hw, hf], rfl⟩)
    · exact .inr (.inl ⟨_, by simp [firstError, hw, hf, hi], rfl⟩)
    · exact .inr (.inr ⟨w, hw, by simp [firstError, hw, hf, hi], ht⟩)
  | compute =>
    rcases execCompute_cases h with ⟨hw, rfl⟩ | ⟨w, hw, ⟨hi, rfl⟩ | ⟨hi, hs, ht⟩⟩
    · exact .inr (.inl ⟨_, by simp [firstError, hw], rfl⟩)
    · have hfirst : firstError .compute s = some .errAddr := by
        by_cases himage : s.imgHigh.toNat < s.imgLow.toNat
        · simp [firstError, hw, himage]
        · have hstore : storeOk w s = false := hi.resolve_left (by simpa [noImage] using himage)
          simp [firstError, hw, himage, hstore]
      exact .inr (.inl ⟨_, hfirst, rfl⟩)
    · exact .inr (.inr ⟨w, hw, by simp_all [firstError, noImage], ht⟩)

/-- A command is rejected with one of three error bits; ERR_CMD is no command's (R222 to R225). -/
theorem firstError_mem {c : Command} {s : State} {e : StatusBit} (h : firstError c s = some e) :
    e = .errCfg ∨ e = .errSeq ∨ e = .errAddr := by
  cases c <;> grind [firstError]

/-! The instructions -/

/-- If an instruction answers a next state, it is a Read or the Write of a register that no other field depends on; or it runs a
command; or it is the write of an invalid command word; or it is the write of CTRL, POLY or STATUS. -/
theorem exec_cases {i : Instr} {s t : State} (h : exec i s = .next t) :
    t = { s with
      init := t.init, xorout := t.xorout, rstart := t.rstart, rend := t.rend, target := t.target, imgLow := t.imgLow
      imgHigh := t.imgHigh, tblIdx := t.tblIdx, readData := t.readData } ∨
    (∃ c, runsCommand c i ∧ exec c.toInstr s = .next t) ∨
    t = setFlag .errCmd s ∨
    (∃ d, i = .wrCtrl d ∧
      ((widthField (d &&& ctrlMask) = widthField s.ctrl ∧ refin (d &&& ctrlMask) = refin s.ctrl ∧
          t = { s with ctrl := d &&& ctrlMask }) ∨
        ((widthField (d &&& ctrlMask) ≠ widthField s.ctrl ∨ refin (d &&& ctrlMask) ≠ refin s.ctrl) ∧
          t = { clearValid s with ctrl := d &&& ctrlMask }))) ∨
    (∃ d, i = .wrPoly d ∧ t = clearFlag .tableValid { s with poly := d }) ∨
    ∃ d, i = .wrStatus d ∧ t = clearSticky d s := by
  cases i with
  | nop => exact .inr (.inl ⟨.nop, .inl rfl, h⟩)
  | build => exact .inr (.inl ⟨.build, .inl rfl, h⟩)
  | start => exact .inr (.inl ⟨.start, .inl rfl, h⟩)
  | fold b => exact .inr (.inl ⟨.fold b, .inl rfl, h⟩)
  | final => exact .inr (.inl ⟨.final, .inl rfl, h⟩)
  | foldRange => exact .inr (.inl ⟨.foldRange, .inl rfl, h⟩)
  | store => exact .inr (.inl ⟨.store, .inl rfl, h⟩)
  | compute => exact .inr (.inl ⟨.compute, .inl rfl, h⟩)
  | wrCmd d =>
    change execWrCmd d s = .next t at h
    rcases execWrCmd_cases d s with ⟨c, hd, he⟩ | ⟨e, -, he⟩ <;> rw [he] at h
    · exact .inr (.inl ⟨c, .inr ⟨d, rfl, hd⟩, h⟩)
    · cases h; exact .inr (.inr (.inl rfl))
  | wrCtrl d =>
    change execWrCtrl d s = .next t at h
    rw [execWrCtrl_eq] at h
    refine .inr (.inr (.inr (.inl ⟨d, rfl, ?_⟩)))
    split at h <;> cases h
    · exact .inr ⟨‹_›, rfl⟩
    · rename_i hsame
      obtain ⟨hwidth, hrefin⟩ := not_or.1 hsame
      exact .inl ⟨not_not.1 hwidth, not_not.1 hrefin, rfl⟩
  | wrPoly d => cases h; exact .inr (.inr (.inr (.inr (.inl ⟨d, rfl, rfl⟩))))
  | wrStatus d => cases h; exact .inr (.inr (.inr (.inr (.inr ⟨d, rfl, rfl⟩))))
  | _ => cases h; exact .inl rfl

end Sys2Proof.Machine
end

section
/-! SUPPORT. Decoding read backwards: which words decode to a command, and which transactions to a write. -/

namespace Sys2Proof.Machine

/-- A command word is its fields put together when RSVD is 0 (R80). -/
theorem commandWord_fields {d : Word} (h : rsvdField d = 0) : commandWord (opField d) (argField d) = d := by
  refine BitVec.eq_of_getLsbD_eq fun i hi => ?_
  simp only [commandWord, BitVec.getLsbD_or, BitVec.getLsbD_shiftLeft, BitVec.getLsbD_setWidth, BitVec.getLsbD_extractLsb', hi]
  rcases Nat.lt_or_ge i 16 with hlow | hhigh
  · rcases Nat.lt_or_ge i 8 with h8 | h8
    · simp [h8]
    · have : i - 8 < 8 ∧ i - 8 < 32 ∧ 8 + (i - 8) = i := by omega
      simp [this, Nat.not_lt.2 h8]
  · have hbit : d.getLsbD i = false := by
      have := congrArg (fun v => v.getLsbD (i - 16)) h
      simpa [BitVec.getLsbD_extractLsb', Nat.add_sub_cancel' hhigh, show i - 16 < 16 by omega] using this
    simp [hbit, Nat.not_lt.2 (show 8 ≤ i by omega), show ¬ i - 8 < 8 by omega]

/-- The only word that decodes to a command is the one it is encoded as (R80 to R84). -/
theorem encode_of_decodeCommand {d : Word} {c : Command} (h : decodeCommand d = .ok c) : encode c.toInstr = .cmd d := by
  unfold decodeCommand at h
  split at h
  · cases h
  rename_i hrsvd
  split at h
  · cases h
  split at h
  · cases h
  rename_i hop
  have hword {n : Nat} (hn : (opField d).toNat = n) {b : Byte} (hb : argField d = b) :
      Request.cmd (commandWord (BitVec.ofNat 8 n) b) = .cmd d := by
    rw [← hn, BitVec.ofNat_toNat, BitVec.setWidth_eq, ← hb, commandWord_fields (not_not.1 hrsvd)]
  have harg {n : Nat} (hn : (opField d).toNat = n) (h3 : n ≠ 3) : argField d = 0 :=
    not_not.1 fun ha => hop ⟨fun h => h3 (by rw [← hn, h]; rfl), ha⟩
  split at h <;> cases h <;> rename_i hn
  · exact hword hn (harg hn (by decide))
  · exact hword hn (harg hn (by decide))
  · exact hword hn (harg hn (by decide))
  · exact hword hn rfl
  · exact hword hn (harg hn (by decide))
  · exact hword hn (harg hn (by decide))
  · exact hword hn (harg hn (by decide))
  · exact hword hn (harg hn (by decide))

/-- A Write transaction that decodes is the encoding of the instruction it decodes to (R88). -/
theorem encode_of_decodeBus_write {x : Transaction} {i : Instr} (h : decodeBus x = .ok i) (hdir : x.dir = .write) :
    encode i = .bus x := by
  obtain ⟨dir, offset, size, data⟩ := x
  cases hdir
  unfold decodeBus at h
  split at h
  · cases h
  split at h
  · cases h
  split at h
  · cases h
  · rename_i hsize _ _ r hr
    cases h
    have hsize : size = 4 := not_not.1 hsize
    have hoffset : r.offset = offset := Reg.offset_of_atOffset hr
    subst hsize hoffset
    cases r <;> rfl

/-- Only the Write transaction of STATUS decodes to a write of STATUS. -/
theorem eq_busWrite_of_decode_wrStatus {r : Request} {d : Word} (h : decode r = .ok (.wrStatus d)) :
    r = busWrite .status d := by
  cases r with
  | cmd w =>
    change (decodeCommand w).map Command.toInstr = .ok (.wrStatus d) at h
    cases hc : decodeCommand w with
    | error e => simp [hc, Except.map] at h
    | ok c => cases c <;> simp [hc, Except.map, Command.toInstr] at h
  | bus x =>
    cases hdir : x.dir with
    | write => exact (encode_of_decodeBus_write h hdir).symm
    | read =>
      change decodeBus x = _ at h
      unfold decodeBus at h
      rw [hdir] at h
      split at h
      · cases h
      split at h
      · cases h
      split at h
      · cases h
      · rename_i reg _
        cases reg <;> cases h

end Sys2Proof.Machine
end

section
/-! SUPPORT. The invariant is kept by each update of the state. -/

namespace Sys2Proof.Machine

/-- The reserved bits of STATUS and BUSY stay 0 when a field other than BUSY is set (R36, R37). -/
theorem reserved_setFlag {f : StatusBit} {s : State} (hf : f ≠ .busy) (h : s.status &&& 0xFFFFFE01 = 0) :
    (setFlag f s).status &&& 0xFFFFFE01 = 0 := by
  have hword : statusWord f &&& 0xFFFFFE01 = 0 := by revert hf; cases f <;> decide
  rw [setFlag_status, BitVec.and_comm, BitVec.and_or_distrib_left, BitVec.and_comm _ s.status, h,
    BitVec.and_comm, hword, BitVec.or_self]

/-- The reserved bits of STATUS and BUSY stay 0 when bits are cleared. -/
theorem reserved_and {v : Word} (m : Word) (h : v &&& 0xFFFFFE01 = 0) : v &&& m &&& 0xFFFFFE01 = 0 := by
  rw [BitVec.and_assoc, BitVec.and_comm m, ← BitVec.and_assoc, h]
  exact BitVec.zero_and

/-- CTRL keeps its reserved bits at 0 when it is written (R24). -/
theorem ctrl_reserved_of_mask (d : Word) : d &&& ctrlMask &&& ~~~ctrlMask = 0 := by
  simp [BitVec.and_assoc]

/-- The selected width depends on the WIDTH field alone (R11, R25). -/
theorem crcWidth_congr {c d : Word} (h : widthField c = widthField d) : crcWidth c = crcWidth d := by
  unfold crcWidth; rw [h]

/-- A change of STATUS, of the canonical image and of what the host alone sees keeps the invariant, if the reserved bits stay 0
and nothing becomes valid. -/
theorem State.Inv.of_valid_le {s t : State} (h : s.Inv) (himage : t.image.wf) (hctrl : t.ctrl = s.ctrl) (hpoly : t.poly = s.poly)
    (htbl : t.tbl = s.tbl) (hacc : t.acc = s.acc) (hresult : t.result = s.result) (hreserved : t.status &&& 0xFFFFFE01 = 0)
    (hvalid : ∀ f ∈ [StatusBit.tableValid, .accValid, .resultValid], flag f t = true → flag f s = true) : t.Inv where
  image_wf := himage
  ctrl_reserved := hctrl ▸ h.ctrl_reserved
  status_reserved := hreserved
  invalid_width hw := by
    obtain ⟨ht, ha, hr⟩ := h.invalid_width (hctrl ▸ hw)
    simp only [← Bool.not_eq_true] at ht ha hr ⊢
    exact ⟨mt (hvalid _ (by simp)) ht, mt (hvalid _ (by simp)) ha, mt (hvalid _ (by simp)) hr⟩
  table_valid w hw hf := by
    rw [htbl, hctrl, hpoly]; exact h.table_valid w (hctrl ▸ hw) (hvalid _ (by simp) hf)
  acc_valid w hw hf := hacc ▸ h.acc_valid w (hctrl ▸ hw) (hvalid _ (by simp) hf)
  result_valid w hw hf := hresult ▸ h.result_valid w (hctrl ▸ hw) (hvalid _ (by simp) hf)

/-- A state with STATUS at 0 keeps the invariant whatever the datapath holds: nothing is said to be valid. -/
theorem State.Inv.of_status_zero {s : State} (himage : s.image.wf) (hctrl : s.ctrl &&& ~~~ctrlMask = 0) (hstatus : s.status = 0) :
    s.Inv where
  image_wf := himage
  ctrl_reserved := hctrl
  status_reserved := by rw [hstatus]; rfl
  invalid_width _ := by simp [flag, hstatus]
  table_valid _ _ hf := by simp [flag, hstatus] at hf
  acc_valid _ _ hf := by simp [flag, hstatus] at hf
  result_valid _ _ hf := by simp [flag, hstatus] at hf

theorem State.Inv.setSticky {s : State} {f : StatusBit} (h : s.Inv) (hf : 4 ≤ statusIndex f) : (setFlag f s).Inv := by
  refine h.of_valid_le h.image_wf rfl rfl rfl rfl rfl (reserved_setFlag ?_ h.status_reserved) fun g hg hset => ?_
  · rintro rfl; cases hf
  · have hne : g ≠ f := by rintro rfl; revert hf hg; cases g <;> decide
    simpa [hne] using hset

theorem State.Inv.clearFlag {s : State} (f : StatusBit) (h : s.Inv) : (clearFlag f s).Inv := by
  refine h.of_valid_le h.image_wf rfl rfl rfl rfl rfl (reserved_and _ h.status_reserved) fun g _ hg => ?_
  rw [flag_clearFlag, Bool.and_eq_true] at hg
  exact hg.1

theorem State.Inv.clearSticky {s : State} (d : Word) (h : s.Inv) : (clearSticky d s).Inv := by
  refine h.of_valid_le h.image_wf rfl rfl rfl rfl rfl (reserved_and _ h.status_reserved) fun g _ hg => ?_
  rw [flag_clearSticky, Bool.and_eq_true] at hg
  exact hg.1

/-! Writes of CTRL and POLY -/

/-- Clearing what is valid makes room for any CTRL word (R101). -/
theorem State.Inv.withCtrl_clearValid {s : State} (d : Word) (h : s.Inv) :
    ({ clearValid s with ctrl := d &&& ctrlMask } : State).Inv := by
  have hoff (f : StatusBit) (hf : f ∈ [StatusBit.tableValid, .accValid, .resultValid]) :
      flag f { clearValid s with ctrl := d &&& ctrlMask } = false := by
    change flag f (clearValid s) = false
    simp only [List.mem_cons, List.not_mem_nil, or_false] at hf
    rcases hf with rfl | rfl | rfl <;> simp
  refine ⟨h.image_wf, ctrl_reserved_of_mask d, ((h.clearFlag _).clearFlag _).clearFlag _ |>.status_reserved,
    fun _ => ⟨hoff _ (by simp), hoff _ (by simp), hoff _ (by simp)⟩, ?_, ?_, ?_⟩ <;> intro _ _ hf
  all_goals rw [hoff _ (by simp)] at hf; cases hf

/-- A CTRL word of the same WIDTH and REFIN keeps what is valid (R101). -/
theorem State.Inv.withCtrl_same {s : State} {d : Word} (h : s.Inv) (hwidth : widthField (d &&& ctrlMask) = widthField s.ctrl)
    (hrefin : refin (d &&& ctrlMask) = refin s.ctrl) : ({ s with ctrl := d &&& ctrlMask } : State).Inv := by
  have hw : crcWidth (d &&& ctrlMask) = crcWidth s.ctrl := crcWidth_congr hwidth
  exact
    { h with
      ctrl_reserved := ctrl_reserved_of_mask d
      invalid_width := fun hn => h.invalid_width (hw ▸ hn)
      table_valid := fun w hw' hf => by rw [hrefin]; exact h.table_valid w (hw ▸ hw') hf
      acc_valid := fun w hw' => h.acc_valid w (hw ▸ hw')
      result_valid := fun w hw' => h.result_valid w (hw ▸ hw') }

/-- With TABLE_VALID cleared `POLY` may be anything (R102). -/
theorem State.Inv.withPoly_clearTable {s : State} (d : Word) (h : s.Inv) :
    (Machine.clearFlag .tableValid { s with poly := d }).Inv :=
  { h.clearFlag .tableValid with table_valid := fun _ _ hf => by simp at hf }

/-! The bodies of the commands -/

section
variable {s : State} {w : CrcWidth}

/-- An accumulator of the current width keeps the invariant. -/
theorem State.Inv.withAcc {v : Word} (h : s.Inv) (hw : crcWidth s.ctrl = some w) (hv : v.toNat < 2 ^ widthBits w) :
    ({ s with acc := v } : State).Inv :=
  { h with acc_valid := fun _ hw' _ => Option.some.inj (hw.symm.trans hw') ▸ hv }

/-- A result of the current width keeps the invariant. -/
theorem State.Inv.withResult {v : Word} (h : s.Inv) (hw : crcWidth s.ctrl = some w) (hv : v.toNat < 2 ^ widthBits w) :
    ({ s with result := v } : State).Inv :=
  { h with result_valid := fun _ hw' _ => Option.some.inj (hw.symm.trans hw') ▸ hv }

/-- The table of the current WIDTH, REFIN and `POLY` keeps the invariant. -/
theorem State.Inv.withTable (h : s.Inv) (hw : crcWidth s.ctrl = some w) :
    ({ s with tbl := tableOf (tblEntry w (refin s.ctrl) s.poly) } : State).Inv :=
  { h with table_valid := fun _ hw' _ => Option.some.inj (hw.symm.trans hw') ▸ rfl }

/-- A validity bit may be set under a usable width when what it says of the datapath is so (R38). -/
theorem State.Inv.setValid {f : StatusBit} (h : s.Inv) (hw : crcWidth s.ctrl = some w) (hbusy : f ≠ .busy)
    (htable : f = .tableValid → s.tbl = tableOf (tblEntry w (refin s.ctrl) s.poly))
    (hacc : f = .accValid → s.acc.toNat < 2 ^ widthBits w) (hresult : f = .resultValid → s.result.toNat < 2 ^ widthBits w) :
    (setFlag f s).Inv := by
  have hflag {g : StatusBit} (hg : flag g (setFlag f s) = true) : flag g s = true ∨ f = g := by
    rw [flag_setFlag, Bool.or_eq_true, decide_eq_true_iff] at hg
    exact hg.imp_right Eq.symm
  have hwidth {w' : CrcWidth} (hw' : crcWidth s.ctrl = some w') : w = w' := Option.some.inj (hw.symm.trans hw')
  exact
    { image_wf := h.image_wf
      ctrl_reserved := h.ctrl_reserved
      status_reserved := reserved_setFlag hbusy h.status_reserved
      invalid_width := fun hn => by simp [hw] at hn
      table_valid := fun w' hw' hg => (hflag hg).elim (h.table_valid w' hw') (hwidth hw' ▸ htable)
      acc_valid := fun w' hw' hg => (hflag hg).elim (h.acc_valid w' hw') (hwidth hw' ▸ hacc)
      result_valid := fun w' hw' hg => (hflag hg).elim (h.result_valid w' hw') (hwidth hw' ▸ hresult) }

theorem State.Inv.buildBody (h : s.Inv) (hw : crcWidth s.ctrl = some w) : (buildBody w s).Inv :=
  (h.withTable hw).setValid hw nofun (fun _ => rfl) nofun nofun

theorem State.Inv.startBody (h : s.Inv) (hw : crcWidth s.ctrl = some w) : (startBody w s).Inv :=
  ((h.withAcc hw (startValue_lt w s)).setValid (f := .accValid) hw nofun nofun (fun _ => startValue_lt w s) nofun).clearFlag _

theorem State.Inv.finalBody (h : s.Inv) (hw : crcWidth s.ctrl = some w) : (finalBody w s).Inv :=
  (h.withResult hw (and_widthMask_lt w _)).setValid hw nofun nofun nofun fun _ => and_widthMask_lt w _

theorem State.Inv.reportClip (h : s.Inv) : (reportClip s).Inv := by
  unfold Machine.reportClip
  split
  · exact h.setSticky (by decide)
  · exact h

/-- Folding any message through a valid table from a valid accumulator keeps the invariant. -/
theorem State.Inv.foldBytes (h : s.Inv) (hw : crcWidth s.ctrl = some w) (hready : (flag .tableValid s && flag .accValid s) = true)
    (bytes : List Byte) : ({ s with acc := bytes.foldl (crcFold w (refin s.ctrl) s.tbl) s.acc } : State).Inv := by
  obtain ⟨htable, hacc⟩ := Bool.and_eq_true_iff.1 hready
  refine h.withAcc hw ?_
  rw [h.table_valid w hw htable]
  exact foldl_crcFold_lt _ _ bytes (h.acc_valid w hw hacc)

theorem State.Inv.foldRangeBody {t : State} (h : s.Inv) (hw : crcWidth s.ctrl = some w)
    (hready : (flag .tableValid s && flag .accValid s) = true) (ht : foldRangeBody w s = .ok t) : t.Inv := by
  obtain ⟨bytes, -, -, rfl⟩ := foldRangeBody_ok ht
  simpa using h.reportClip.foldBytes (w := w) (by simpa using hw) (by simpa using hready) bytes

theorem State.Inv.storeBody {t : State} (h : s.Inv) (ht : storeBody w s = .ok t) : t.Inv := by
  obtain ⟨heq, hwf, -⟩ := storeBody_ok ht
  rw [heq]
  exact { h with image_wf := hwf h.image_wf }

/-- COMPUTE's body keeps the invariant because each of its five bodies does (R201). -/
theorem State.Inv.computeBody {t : State} (h : s.Inv) (hw : crcWidth s.ctrl = some w) (ht : computeBody w s = .ok t) :
    t.Inv := by
  obtain ⟨u, hfold, hstore⟩ := computeBody_ok ht
  have hstart : (Machine.startBody w (Machine.buildBody w s)).Inv := (h.buildBody hw).startBody hw
  have hu : u.Inv := hstart.foldRangeBody hw (by simp) hfold
  have huw : crcWidth u.ctrl = some w := by
    obtain ⟨_, -, -, rfl⟩ := foldRangeBody_ok hfold
    simpa using hw
  exact (hu.finalBody huw).storeBody hstore

end

/-! The machine -/

/-- FOLD and FOLDRANGE pass their checks only with a valid table and a valid accumulator (R224). -/
theorem fold_ready_of_firstError {c : Command} {s : State} (h : firstError c s = none)
    (hc : (∃ b, c = .fold b) ∨ c = .foldRange) : (flag .tableValid s && flag .accValid s) = true := by
  rcases hc with ⟨b, rfl⟩ | rfl <;> simp_all [firstError]

theorem State.Inv.commandBody {s t : State} {c : Command} {w : CrcWidth} (h : s.Inv) (hw : crcWidth s.ctrl = some w)
    (hpass : firstError c s = none) (ht : commandBody w s c = .ok t) : t.Inv := by
  cases c with
  | nop => cases ht; exact h
  | build => cases ht; exact h.buildBody hw
  | start => cases ht; exact h.startBody hw
  | fold b => cases ht; exact h.foldBytes hw (fold_ready_of_firstError hpass (.inl ⟨b, rfl⟩)) [b]
  | final => cases ht; exact h.finalBody hw
  | foldRange => exact h.foldRangeBody hw (fold_ready_of_firstError hpass (.inr rfl)) ht
  | store => exact h.storeBody ht
  | compute => exact h.computeBody hw ht

theorem State.Inv.command {s t : State} {c : Command} (h : s.Inv) (ht : exec c.toInstr s = .next t) : t.Inv := by
  rcases exec_command_cases ht with ⟨-, rfl⟩ | ⟨e, he, rfl⟩ | ⟨w, hw, hpass, hbody⟩
  · exact h
  · exact h.setSticky (by rcases firstError_mem he with rfl | rfl | rfl <;> decide)
  · exact h.commandBody hw hpass hbody

/-- Every instruction keeps the invariant. -/
theorem State.Inv.exec {i : Instr} {s t : State} (h : s.Inv) (ht : exec i s = .next t) : t.Inv := by
  rcases exec_cases ht with heq | ⟨c, -, hc⟩ | rfl | ⟨d, -, ⟨hwidth, hrefin, rfl⟩ | ⟨-, rfl⟩⟩ | ⟨d, -, rfl⟩ | ⟨d, -, rfl⟩
  · rw [heq]; exact { h with }
  · exact h.command hc
  · exact h.setSticky (by decide)
  · exact h.withCtrl_same hwidth hrefin
  · exact h.withCtrl_clearValid d
  · exact h.withPoly_clearTable d
  · exact h.clearSticky d

theorem State.Inv.assertReset {s : State} (h : s.Inv) : (assertReset s).Inv :=
  .of_status_zero h.image_wf (BitVec.zero_and) rfl

/-- Settles O2: after reset STATUS is 0, so nothing is said to be valid. -/
theorem resetSatisfiesTheInvariant : Obligations.ResetSatisfiesTheInvariant :=
  .of_status_zero (by simp [State.reset, Memory.wf]) (BitVec.zero_and) rfl

/-- Settles O3, case by case of the host's action: an instruction by what it can do (`exec_cases`), the reset because it clears
STATUS, and the image accesses because they keep the image canonical. -/
theorem everyStepKeepsTheInvariant : Obligations.EveryStepKeepsTheInvariant := by
  intro s t h hstep
  rcases step_cases hstep with ⟨-, rfl⟩ | ⟨a, rest, u, -, rfl, -, hact⟩
  · exact h
  have hu : ({ s with pending := rest } : State).Inv := { h with }
  rcases hact with ⟨_, i, -, -, hi⟩ | ⟨_, _, -, -, rfl⟩ | ⟨-, rfl⟩ | ⟨b, v, -, rfl⟩ | ⟨_, _, -, -, rfl⟩
  · exact hu.exec hi
  · exact hu.setSticky (by decide)
  · exact hu.assertReset
  · exact { hu with image_wf := hostImageWrite_wf hu.image_wf }
  · exact { hu with }

/-- Settles O4: BUSY is among the bits of STATUS that the invariant holds at 0. -/
theorem busyReadsZero : Obligations.BusyReadsZero := by
  intro s h
  have hbit := congrArg (fun v => v.getLsbD 0) h.status_reserved
  exact ⟨s.status, rfl, by simpa using hbit⟩

end Sys2Proof.Machine
end

section
/-! SUPPORT. What no instruction touches: the sticky bits once set, and the table but for BUILD and COMPUTE. -/

namespace Sys2Proof.Machine

/-! The bodies that use the image -/

section
variable {w : CrcWidth} {s t : State}

/-- FOLDRANGE's body touches no bit of STATUS but CLIPPED (R163). -/
theorem flag_of_foldRangeBody (h : foldRangeBody w s = .ok t) (g : StatusBit) :
    flag g t = (flag g s || (rangeClipped s && decide (g = .clipped))) := by
  obtain ⟨_, -, -, rfl⟩ := foldRangeBody_ok h
  exact flag_reportClip g s

/-- STORE's body touches no bit of STATUS (R181). -/
theorem flag_of_storeBody (h : storeBody w s = .ok t) (g : StatusBit) : flag g t = flag g s := by
  obtain ⟨heq, -⟩ := storeBody_ok h
  rw [heq]; rfl

theorem tbl_of_foldRangeBody (h : foldRangeBody w s = .ok t) : t.tbl = s.tbl := by
  obtain ⟨_, -, -, rfl⟩ := foldRangeBody_ok h
  exact reportClip_tbl s

theorem tbl_of_storeBody (h : storeBody w s = .ok t) : t.tbl = s.tbl := by
  obtain ⟨heq, -⟩ := storeBody_ok h
  rw [heq]

end

/-! The sticky bits -/

/-- No command's body clears a sticky bit (R39). -/
theorem commandBody_keeps_sticky {c : Command} {w : CrcWidth} {s t : State} {f : StatusBit} (hf : 4 ≤ statusIndex f)
    (hset : flag f s = true) (h : commandBody w s c = .ok t) : flag f t = true := by
  have hresult : f ≠ .resultValid := by rintro rfl; revert hf; decide
  cases c with
  | nop => cases h; exact hset
  | build => cases h; simp [hset]
  | start => cases h; simp [hset, hresult]
  | fold b => cases h; exact hset
  | final => cases h; simp [hset]
  | foldRange => rw [flag_of_foldRangeBody h, hset, Bool.true_or]
  | store => rw [flag_of_storeBody h, hset]
  | compute =>
    obtain ⟨u, hfold, hstore⟩ := computeBody_ok h
    rw [flag_of_storeBody hstore, flag_finalBody, flag_of_foldRangeBody hfold]
    simp [hset, hresult]

theorem command_keeps_sticky {c : Command} {s t : State} {f : StatusBit} (hf : 4 ≤ statusIndex f)
    (hset : flag f s = true) (h : exec c.toInstr s = .next t) : flag f t = true := by
  rcases exec_command_cases h with ⟨-, rfl⟩ | ⟨e, -, rfl⟩ | ⟨w, -, -, hbody⟩
  · exact hset
  · simp [hset]
  · exact commandBody_keeps_sticky hf hset hbody

/-- An instruction clears a sticky bit only as the write of STATUS with a 1 at that bit (R39, R111). -/
theorem exec_keeps_sticky {i : Instr} {s t : State} {f : StatusBit} (hf : 4 ≤ statusIndex f) (hset : flag f s = true)
    (h : exec i s = .next t) : flag f t = true ∨ ∃ d, i = .wrStatus d ∧ d.getLsbD (statusIndex f) = true := by
  rcases exec_cases h with heq | ⟨c, -, hc⟩ | rfl | ⟨d, -, ⟨-, -, rfl⟩ | ⟨-, rfl⟩⟩ | ⟨d, -, rfl⟩ | ⟨d, rfl, rfl⟩
  · rw [heq]; exact .inl hset
  · exact .inl (command_keeps_sticky hf hset hc)
  · exact .inl (by simp [hset])
  · exact .inl hset
  · have hkept : flag f (clearValid s) = true := by
      rw [flag_clearValid, hset]; revert hf; cases f <;> decide
    exact .inl hkept
  · have hkept : flag f (clearFlag .tableValid s) = true := by
      rw [flag_clearFlag, hset]; revert hf; cases f <;> decide
    exact .inl hkept
  · cases hbit : d.getLsbD (statusIndex f) with
    | true => exact .inr ⟨d, rfl, hbit⟩
    | false => exact .inl (by simp [hset, hbit])

/-- Settles O45, case by case of the host's action; an instruction clears the bit only as the write of STATUS, which one request
alone decodes to. -/
theorem stickyBitStaysUntilWrittenOrReset : Obligations.StickyBitStaysUntilWrittenOrReset := by
  intro s t f hmem hset hstep
  have hf : 4 ≤ statusIndex f := by revert hmem; cases f <;> decide
  rcases step_cases hstep with ⟨-, rfl⟩ | ⟨a, rest, u, hp, rfl, -, hact⟩
  · exact .inl hset
  have hu : flag f { s with pending := rest } = true := hset
  rcases hact with ⟨r, i, rfl, hr, hi⟩ | ⟨_, _, -, -, rfl⟩ | ⟨rfl, -⟩ | ⟨_, _, -, rfl⟩ | ⟨_, _, -, -, rfl⟩
  · rcases exec_keeps_sticky hf hu hi with hkept | ⟨d, rfl, hbit⟩
    · exact .inl hkept
    · cases eq_busWrite_of_decode_wrStatus hr
      exact .inr (.inr ⟨d, rest, hp, hbit⟩)
  · exact .inl (by simp [hu])
  · exact .inr (.inl ⟨rest, hp⟩)
  · exact .inl hset
  · exact .inl hset

/-! The table -/

/-- Of the commands' bodies only those of BUILD and COMPUTE write the table (R40). -/
theorem tbl_of_commandBody {c : Command} {w : CrcWidth} {s t : State} (hbuild : c ≠ .build) (hcompute : c ≠ .compute)
    (h : commandBody w s c = .ok t) : t.tbl = s.tbl := by
  cases c with
  | nop => cases h; rfl
  | build => exact absurd rfl hbuild
  | start => cases h; rfl
  | fold b => cases h; rfl
  | final => cases h; rfl
  | foldRange => exact tbl_of_foldRangeBody h
  | store => exact tbl_of_storeBody h
  | compute => exact absurd rfl hcompute

theorem tbl_of_command {c : Command} {s t : State} (hbuild : c ≠ .build) (hcompute : c ≠ .compute)
    (h : exec c.toInstr s = .next t) : t.tbl = s.tbl := by
  rcases exec_command_cases h with ⟨-, rfl⟩ | ⟨e, -, rfl⟩ | ⟨w, -, -, hbody⟩
  · rfl
  · rfl
  · exact tbl_of_commandBody hbuild hcompute hbody

/-- The two ways to run a command, with the one word that `CMD` takes for it (R80, R81). -/
theorem runsCommand_cases {c : Command} {i : Instr} (h : runsCommand c i) :
    i = c.toInstr ∨ ∃ d, i = .wrCmd d ∧ encode c.toInstr = .cmd d := by
  rcases h with rfl | ⟨d, rfl, hd⟩
  · exact .inl rfl
  · exact .inr ⟨d, rfl, encode_of_decodeCommand hd⟩

/-- Settles O46: an instruction that changes the table runs a command, and that command is BUILD or COMPUTE. -/
theorem onlyBuildWritesTheTable : Obligations.OnlyBuildWritesTheTable := by
  intro i s t h
  rcases exec_cases h with heq | ⟨c, hi, hc⟩ | rfl | ⟨d, -, ⟨-, -, rfl⟩ | ⟨-, rfl⟩⟩ | ⟨d, -, rfl⟩ | ⟨d, -, rfl⟩
  · rw [heq]; exact .inl rfl
  · by_cases hbuild : c = .build
    · subst hbuild
      rcases runsCommand_cases hi with rfl | ⟨d, rfl, hd⟩
      · exact .inr (.inl rfl)
      · cases hd; exact .inr (.inr (.inr (.inl rfl)))
    by_cases hcompute : c = .compute
    · subst hcompute
      rcases runsCommand_cases hi with rfl | ⟨d, rfl, hd⟩
      · exact .inr (.inr (.inl rfl))
      · cases hd; exact .inr (.inr (.inr (.inr rfl)))
    exact .inl (tbl_of_command hbuild hcompute hc)
  all_goals exact .inl rfl

end Sys2Proof.Machine
end

section
/-! SUPPORT. The bits of CTRL that a command does not read: with them flipped it does the same. -/

namespace Sys2Proof.Machine

/-- Flipping the bits of `m` leaves what the commands other than STORE and COMPUTE read of CTRL: WIDTH, REFIN and RANGE_EN. -/
structure SparesDatapath (m : Word) : Prop where
  width : ∀ c, crcWidth (c ^^^ m) = crcWidth c
  refin : ∀ c, Machine.refin (c ^^^ m) = Machine.refin c
  rangeEn : ∀ c, Machine.rangeEn (c ^^^ m) = Machine.rangeEn c

/-- A mask without the bits of WIDTH, REFIN and RANGE_EN spares them. -/
theorem SparesDatapath.of_bits {m : Word} (hw : widthField m = 0) (hr : m.getLsbD 2 = false) (he : m.getLsbD 5 = false) :
    SparesDatapath m where
  width c := crcWidth_congr (by
    have : widthField (c ^^^ m) = widthField c ^^^ widthField m := BitVec.extractLsb'_xor
    rw [this, hw]; exact BitVec.xor_zero)
  refin c := by simp only [Machine.refin, BitVec.getLsbD_xor, hr, Bool.xor_false]
  rangeEn c := by simp only [Machine.rangeEn, BitVec.getLsbD_xor, he, Bool.xor_false]

section
variable {m : Word}

@[simp] theorem flag_flipCtrl (g : StatusBit) (s : State) : flag g (flipCtrl m s) = flag g s := rfl

/-- The width check sees no flipped bit. -/
theorem withWidth_flipCtrl (hm : SparesDatapath m) {s : State} {k k' : CrcWidth → Outcome}
    (hk : ∀ w, k' w = mapNext (flipCtrl m) (k w)) :
    withWidth (flipCtrl m s) k' = mapNext (flipCtrl m) (withWidth s k) := by
  have hw : crcWidth (flipCtrl m s).ctrl = crcWidth s.ctrl := hm.width s.ctrl
  unfold withWidth
  rw [hw]
  cases crcWidth s.ctrl with
  | none => rfl
  | some w => exact hk w

theorem mapNext_finish (f : State → State) (r : Except Fault State) : finish (r.map f) = mapNext f (finish r) := by
  cases r <;> rfl

theorem mapNext_ite {p : Prop} [Decidable p] (f : State → State) (a b : Outcome) :
    mapNext f (if p then a else b) = if p then mapNext f a else mapNext f b := by split <;> rfl

/-! The bodies -/

theorem buildBody_flipCtrl (hm : SparesDatapath m) (w : CrcWidth) (s : State) :
    buildBody w (flipCtrl m s) = flipCtrl m (buildBody w s) := by
  have hr : refin (flipCtrl m s).ctrl = refin s.ctrl := hm.refin s.ctrl
  unfold buildBody; rw [hr]; rfl

theorem startBody_flipCtrl (hm : SparesDatapath m) (w : CrcWidth) (s : State) :
    startBody w (flipCtrl m s) = flipCtrl m (startBody w s) := by
  have hr : refin (flipCtrl m s).ctrl = refin s.ctrl := hm.refin s.ctrl
  unfold startBody startValue; rw [hr]; rfl

theorem foldBody_flipCtrl (hm : SparesDatapath m) (w : CrcWidth) (b : Byte) (s : State) :
    foldBody w b (flipCtrl m s) = flipCtrl m (foldBody w b s) := by
  have hr : refin (flipCtrl m s).ctrl = refin s.ctrl := hm.refin s.ctrl
  unfold foldBody; rw [hr]; rfl

theorem foldFrom_flipCtrl (hm : SparesDatapath m) (w : CrcWidth) (n a : Nat) (s : State) :
    foldFrom w n a (flipCtrl m s) = (foldFrom w n a s).map (flipCtrl m) := by
  induction n generalizing a s with
  | zero => rfl
  | succ n ih =>
    have hread : memRead a (flipCtrl m s) = memRead a s := rfl
    simp only [foldFrom, hread]
    cases memRead a s with
    | ok b => simp only [foldBody_flipCtrl hm, ih]
    | error f => rfl

/-- The effective range sees no flipped bit (R164). -/
theorem range_flipCtrl (hm : SparesDatapath m) (s : State) :
    requestedStart (flipCtrl m s) = requestedStart s ∧ requestedEnd (flipCtrl m s) = requestedEnd s := by
  have he : rangeEn (flipCtrl m s).ctrl = rangeEn s.ctrl := hm.rangeEn s.ctrl
  unfold requestedStart requestedEnd
  rw [he]
  exact ⟨rfl, rfl⟩

theorem foldRangeBody_flipCtrl (hm : SparesDatapath m) (w : CrcWidth) (s : State) :
    foldRangeBody w (flipCtrl m s) = (foldRangeBody w s).map (flipCtrl m) := by
  obtain ⟨hs, he⟩ := range_flipCtrl hm s
  have hstart : effStart (flipCtrl m s) = effStart s := congrArg (max · s.imgLow.toNat) hs
  have hend : effEnd (flipCtrl m s) = effEnd s := congrArg (min · s.imgHigh.toNat) he
  have hclip : reportClip (flipCtrl m s) = flipCtrl m (reportClip s) := by
    unfold reportClip rangeClipped
    rw [hs, he, hstart, hend]
    split <;> rfl
  unfold foldRangeBody rangeLength
  rw [hstart, hend, hclip, foldFrom_flipCtrl hm]

/-- STORE's loop sees no flipped bit but that of ENDIAN (R181). -/
theorem storeFrom_flipCtrl (hbig : ∀ c, endianBig (c ^^^ m) = endianBig c) (w : CrcWidth) (n k : Nat) (s : State) :
    storeFrom w n k (flipCtrl m s) = (storeFrom w n k s).map (flipCtrl m) := by
  induction n generalizing k s with
  | zero => rfl
  | succ n ih =>
    have hb : endianBig (flipCtrl m s).ctrl = endianBig s.ctrl := hbig s.ctrl
    have hwrite (a : Nat) (v : Byte) : memWrite a v (flipCtrl m s) = (memWrite a v s).map (flipCtrl m) := by
      have himage : (flipCtrl m s).image = s.image := rfl
      unfold memWrite
      rw [himage]
      cases s.image.read a <;> rfl
    have htarget : (flipCtrl m s).target = s.target := rfl
    have hresult : (flipCtrl m s).result = s.result := rfl
    simp only [storeFrom, hb, hwrite, htarget, hresult]
    cases memWrite (s.target.toNat + k) (storeByte s.result (widthBytes w) (endianBig s.ctrl) k) s with
    | ok t => exact ih (k + 1) t
    | error f => rfl

theorem computeBody_flipCtrl (hm : SparesDatapath m) (hbig : ∀ c, endianBig (c ^^^ m) = endianBig c) (w : CrcWidth) (s : State) :
    computeBody w (flipCtrl m s) = (computeBody w s).map (flipCtrl m) := by
  unfold computeBody
  rw [buildBody_flipCtrl hm, startBody_flipCtrl hm, foldRangeBody_flipCtrl hm]
  cases foldRangeBody w (startBody w (buildBody w s)) with
  | ok t => exact storeFrom_flipCtrl hbig w _ _ (finalBody w t)
  | error f => rfl

/-! The commands -/

/-- No command other than STORE and COMPUTE reads a bit of CTRL outside WIDTH, REFIN and RANGE_EN (R27, R28). -/
theorem exec_flipCtrl (hm : SparesDatapath m) {c : Command} (s : State) (hstore : c ≠ .store) (hcompute : c ≠ .compute) :
    exec c.toInstr (flipCtrl m s) = mapNext (flipCtrl m) (exec c.toInstr s) := by
  cases c with
  | nop => rfl
  | build => exact withWidth_flipCtrl hm fun w => by rw [buildBody_flipCtrl hm]; rfl
  | start => exact withWidth_flipCtrl hm fun w => by rw [startBody_flipCtrl hm]; rfl
  | fold b => exact withWidth_flipCtrl hm fun w => by rw [mapNext_ite, foldBody_flipCtrl hm]; rfl
  | final => exact withWidth_flipCtrl hm fun w => by rw [mapNext_ite]; rfl
  | foldRange =>
    exact withWidth_flipCtrl hm fun w => by rw [mapNext_ite, mapNext_ite, foldRangeBody_flipCtrl hm, mapNext_finish]; rfl
  | store => exact absurd rfl hstore
  | compute => exact absurd rfl hcompute

/-- STORE and COMPUTE read ENDIAN besides (R28). -/
theorem exec_flipCtrl_of_endian (hm : SparesDatapath m) (hbig : ∀ c, endianBig (c ^^^ m) = endianBig c) (c : Command) (s : State) :
    exec c.toInstr (flipCtrl m s) = mapNext (flipCtrl m) (exec c.toInstr s) := by
  by_cases hstore : c = .store
  · subst hstore
    refine withWidth_flipCtrl hm fun w => ?_
    rw [mapNext_ite, mapNext_ite, ← mapNext_finish, storeBody, storeBody, ← storeFrom_flipCtrl hbig]; rfl
  by_cases hcompute : c = .compute
  · subst hcompute
    refine withWidth_flipCtrl hm fun w => ?_
    rw [mapNext_ite, mapNext_ite, ← mapNext_finish, ← computeBody_flipCtrl hm hbig]; rfl
  exact exec_flipCtrl hm s hstore hcompute

end

/-- A write of CTRL stores the implemented bits of its word, whatever becomes of the validity bits (R101). -/
theorem exec_wrCtrl_ctrl (s : State) (d : Word) : ∃ t, exec (.wrCtrl d) s = .next t ∧ t.ctrl = d &&& ctrlMask := by
  change ∃ t, execWrCtrl d s = .next t ∧ _
  rw [execWrCtrl_eq]
  split <;> exact ⟨_, rfl, rfl⟩

/-- Settles O50: bit 3 of CTRL is among the bits a write keeps, and it is none of WIDTH, REFIN, RANGE_EN and ENDIAN. -/
theorem refoutHasNoEffect : Obligations.RefoutHasNoEffect := by
  refine ⟨fun s d => ?_, fun c s => ?_⟩
  · obtain ⟨t, ht, hctrl⟩ := exec_wrCtrl_ctrl s d
    refine ⟨respond t.ctrl t, t.ctrl, (execAll_cons_next ht).trans rfl, rfl, ?_⟩
    rw [hctrl, BitVec.getLsbD_and]
    exact Bool.and_true _
  · exact exec_flipCtrl_of_endian (.of_bits rfl rfl rfl) (fun c => by simp [endianBig]) c s

/-- Settles O51: ENDIAN, bit 4 of CTRL, is none of WIDTH, REFIN and RANGE_EN. -/
theorem endianGovernsOnlyTheResultWrite : Obligations.EndianGovernsOnlyTheResultWrite :=
  fun _ s hstore hcompute => exec_flipCtrl (.of_bits rfl rfl rfl) s hstore hcompute

end Sys2Proof.Machine
end

section
/-! SUPPORT. Registers read back. -/

namespace Sys2Proof.Machine

/-- Settles O20: TBL_DATA shows the entry that TBL_IDX selects, and after BUILD that is the entry R141 gives its index. -/
theorem readOfTblDataReturnsTheSelectedEntry : Obligations.ReadOfTblDataReturnsTheSelectedEntry := by
  refine ⟨fun _ => rfl, fun s hw hr hp => ?_⟩
  have hbuild : exec .build s = .next (buildBody .w32 s) := withWidth_some hw
  have hentry : tblEntry .w32 true 0x04C11DB7 1 = 0x77073096 := by decide +kernel
  refine ⟨_, execAll_cons_next hbuild |>.trans rfl, congrArg some ?_⟩
  change tableAt (buildBody .w32 s).tbl 1 = _
  rw [buildBody_tbl, tableAt_tableOf, hr, hp, hentry]

/-- Settles O21, register by register: the write stores the whole word and the read returns the register. -/
theorem configurationReadsBackAsWritten : Obligations.ConfigurationReadsBackAsWritten := by
  intro s d p hp
  simp only [List.mem_cons, List.not_mem_nil, or_false] at hp
  rcases hp with rfl | rfl | rfl | rfl | rfl | rfl | rfl | rfl
  all_goals exact ⟨_, rfl, rfl⟩

end Sys2Proof.Machine
end

section
/-! SUPPORT. The image under the commands: only the result write of STORE and COMPUTE reaches it, inside the target field and the
image window. -/

namespace Sys2Proof.Machine

section
variable {w : CrcWidth} {s t : State} {a : Nat}

theorem image_of_foldRangeBody (h : foldRangeBody w s = .ok t) : t.image = s.image := by
  obtain ⟨_, -, -, rfl⟩ := foldRangeBody_ok h
  exact reportClip_image s

theorem target_of_foldRangeBody (h : foldRangeBody w s = .ok t) : t.target = s.target := by
  obtain ⟨_, -, -, rfl⟩ := foldRangeBody_ok h
  exact reportClip_target s

/-- STORE's body changes no byte outside the target field (R181, R62). -/
theorem inTargetField_of_storeBody (h : storeBody w s = .ok t) (ha : t.image.read a ≠ s.image.read a) :
    inTargetField w s a := by
  obtain ⟨-, -, -, -, hother⟩ := storeBody_ok h
  by_contra hout
  refine ha (hother a fun k hk hak => hout ?_)
  exact ⟨by omega, by omega⟩

/-- COMPUTE's body changes no byte outside the target field: what runs before its result write leaves the image and TARGET
alone (R201). -/
theorem inTargetField_of_computeBody (h : computeBody w s = .ok t) (ha : t.image.read a ≠ s.image.read a) :
    inTargetField w s a := by
  obtain ⟨u, hfold, hstore⟩ := computeBody_ok h
  have himage : u.image = s.image := by
    rw [image_of_foldRangeBody hfold, startBody_image, buildBody_image]
  have htarget : u.target = s.target := by
    rw [target_of_foldRangeBody hfold, startBody_target, buildBody_target]
  have hchanged : t.image.read a ≠ (finalBody w u).image.read a := by
    rw [finalBody_image, himage]
    exact ha
  have hfield := inTargetField_of_storeBody hstore hchanged
  rw [inTargetField, finalBody_target, htarget] at hfield
  exact hfield

/-- When the store bounds are met, the target field lies in the image window (R182). -/
theorem window_of_inTargetField (hok : storeOk w s = true) (ha : inTargetField w s a) :
    s.imgLow.toNat ≤ a ∧ a ≤ s.imgHigh.toNat := by
  obtain ⟨-, hlow, hhigh⟩ := of_decide_eq_true hok
  obtain ⟨hfirst, hlast⟩ := ha
  omega

/-- Of the commands' bodies only those of STORE and COMPUTE change the image, and only in the target field. -/
theorem commandBody_image_change {c : Command} (h : commandBody w s c = .ok t) (ha : t.image.read a ≠ s.image.read a) :
    (c = .store ∨ c = .compute) ∧ inTargetField w s a := by
  cases c with
  | foldRange => exact absurd (by rw [image_of_foldRangeBody h]) ha
  | store => exact ⟨.inl rfl, inTargetField_of_storeBody h ha⟩
  | compute => exact ⟨.inr rfl, inTargetField_of_computeBody h ha⟩
  | _ => cases h; exact absurd rfl ha

/-- STORE and COMPUTE pass their checks only when the store bounds are met (R225). -/
theorem storeOk_of_firstError {c : Command} (h : firstError c s = none) (hw : crcWidth s.ctrl = some w)
    (hc : c = .store ∨ c = .compute) : storeOk w s = true := by
  rcases hc with rfl | rfl <;> simp_all [firstError]

/-- A command that changes the image is STORE or COMPUTE, and the byte lies in the target field and in the image window. -/
theorem command_image_change {c : Command} (h : exec c.toInstr s = .next t) (ha : t.image.read a ≠ s.image.read a) :
    (c = .store ∨ c = .compute) ∧
      ∃ w, crcWidth s.ctrl = some w ∧ inTargetField w s a ∧ s.imgLow.toNat ≤ a ∧ a ≤ s.imgHigh.toNat := by
  rcases exec_command_cases h with ⟨-, rfl⟩ | ⟨e, -, rfl⟩ | ⟨w, hw, hpass, hbody⟩
  · exact absurd rfl ha
  · exact absurd rfl ha
  · obtain ⟨hc, hfield⟩ := commandBody_image_change hbody ha
    exact ⟨hc, w, hw, hfield, window_of_inTargetField (storeOk_of_firstError hpass hw hc) hfield⟩

end

/-- Settles O47: an instruction that changes the image runs a command, and that command is STORE or COMPUTE. -/
theorem engineWritesOnlyTheTargetField : Obligations.EngineWritesOnlyTheTargetField := by
  intro i s t a h ha
  rcases exec_cases h with heq | ⟨c, hi, hc⟩ | rfl | ⟨d, -, ⟨-, -, rfl⟩ | ⟨-, rfl⟩⟩ | ⟨d, -, rfl⟩ | ⟨d, -, rfl⟩
  · exact absurd (by rw [heq]) ha
  · obtain ⟨hname, hplace⟩ := command_image_change hc ha
    refine ⟨?_, hplace⟩
    rcases hname with rfl | rfl
    · rcases runsCommand_cases hi with rfl | ⟨d, rfl, hd⟩
      · exact .inl rfl
      · cases hd; exact .inr (.inr (.inl rfl))
    · rcases runsCommand_cases hi with rfl | ⟨d, rfl, hd⟩
      · exact .inr (.inl rfl)
      · cases hd; exact .inr (.inr (.inr rfl))
  all_goals exact absurd rfl ha

end Sys2Proof.Machine
end

section
/-! SUPPORT. What a step answers, forwards: the next action is carried out on the state with it taken off the list. -/

namespace Sys2Proof.Machine

/-- What a host action that BUSY does not forbid does to the state it finds. -/
def actionOutcome (s : State) : HostAction → Outcome
  | .request r =>
    match decode r with
    | .ok i => exec i s
    | .error e => rejectRequest e s
  | .reset => .next (assertReset s)
  | .imageWrite a v => .next (hostImageWrite a v s)
  | .imageRead a => finish (hostImageRead a s)

theorem actionOutcome_request {s : State} {r : Request} {i : Instr} (h : decode r = .ok i) :
    actionOutcome s (.request r) = exec i s := by simp [actionOutcome, h]

section
variable {s : State} {a : HostAction} {rest : List HostAction}

/-- A step carries out the next action when BUSY does not forbid it (R70, R263). -/
theorem step_of_allowed (hp : s.pending = a :: rest) (hallowed : busyForbids a { s with pending := rest } = false) :
    step s = actionOutcome { s with pending := rest } a := by
  have hf : fetch s = some (a, { s with pending := rest }) := fetch_some.2 ⟨rest, hp, rfl⟩
  simp only [step, hf, hallowed, Bool.false_eq_true, if_false]
  cases a <;> rfl

/-- While BUSY is 0 a step carries out the next action, whatever it is. -/
theorem step_of_not_busy (hp : s.pending = a :: rest) (hbusy : flag .busy s = false) :
    step s = actionOutcome { s with pending := rest } a :=
  step_of_allowed hp (busyForbids_of_not_busy hbusy)

end

/-! The read of STATUS -/

/-- A transaction that decodes is a word access at its register's offset, and the Read or the Write of that register (R88). -/
theorem decodeBus_ok {x : Transaction} {i : Instr} (h : decodeBus x = .ok i) :
    x.size = 4 ∧ ∃ r : Reg, x.offset = r.offset ∧
      ((x.dir = .read ∧ i = readOf r) ∨ (x.dir = .write ∧ i = writeOf x.data r)) := by
  unfold decodeBus at h
  split at h
  · cases h
  rename_i hsize
  split at h
  · cases h
  split at h
  · cases h
  rename_i r hr
  refine ⟨not_not.1 hsize, r, (Reg.offset_of_atOffset hr).symm, ?_⟩
  split at h <;> cases h
  · exact .inl ⟨‹_›, rfl⟩
  · exact .inr ⟨‹_›, rfl⟩

/-- A word that decodes is the command it carries (R84). -/
theorem decode_cmd_ok {d : Word} {i : Instr} (h : decode (.cmd d) = .ok i) :
    ∃ c, decodeCommand d = .ok c ∧ i = c.toInstr := by
  change (decodeCommand d).map Command.toInstr = .ok i at h
  cases hc : decodeCommand d with
  | error e => rw [hc] at h; cases h
  | ok c => rw [hc] at h; cases h; exact ⟨c, rfl, rfl⟩

/-- What decodes to the read of STATUS is the access that BUSY allows (R263). -/
theorem isStatusRead_of_decode {r : Request} (h : decode r = .ok .rdStatus) : isStatusRead (.request r) = true := by
  cases r with
  | cmd d =>
    obtain ⟨c, -, hc⟩ := decode_cmd_ok h
    cases c <;> cases hc
  | bus x =>
    obtain ⟨hsize, reg, hoffset, ⟨hdir, hi⟩ | ⟨-, hi⟩⟩ := decodeBus_ok h
    · cases reg <;> cases hi
      exact decide_eq_true ⟨hdir, hoffset, hsize⟩
    · cases reg <;> cases hi

/-- Settles O10: BUSY forbids no request at 0 and never the read of STATUS, so the step carries it out. -/
theorem stepRunsTheDecodedInstruction : Obligations.StepRunsTheDecodedInstruction := by
  intro s r rest i hp hr hfree
  have hallowed : busyForbids (.request r) { s with pending := rest } = false := by
    rcases hfree with hbusy | rfl
    · exact busyForbids_of_not_busy hbusy
    · simp [busyForbids, isStatusRead_of_decode hr]
  rw [step_of_allowed hp hallowed, actionOutcome_request hr]

/-! The host's image accesses -/

/-- When `hostImageRead` answers no state: the address is outside the buffer. -/
theorem hostImageRead_error {a : Word} {s : State} {f : Fault} :
    hostImageRead a s = .error f ↔ s.image.read a.toNat = none ∧ f = .outsideBuffer := by
  rw [← memRead_error]
  unfold hostImageRead
  split <;> simp [*]

/-- Settles O16: the step carries out the image action, and the image obeys read after write. -/
theorem hostImageReadSeesTheLastWrite : Obligations.HostImageReadSeesTheLastWrite := by
  intro s a v rest hbusy
  refine ⟨fun hp => ?_, fun hp hv => ?_, fun hp hnone => ?_⟩
  · exact ⟨_, step_of_not_busy hp hbusy, s.image.read_write_self _ v, fun _ hb => s.image.read_write_other v hb⟩
  · rw [step_of_not_busy hp hbusy]
    exact finish_next.2 (hostImageRead_ok.2 ⟨v, hv, rfl⟩)
  · rw [step_of_not_busy hp hbusy]
    exact finish_fault.2 (hostImageRead_error.2 ⟨hnone, rfl⟩)

end Sys2Proof.Machine
end

section
/-! SUPPORT. The encoding, both ways: a command word by its fields, a transaction by its register, and the instructions that they
stand for. -/

namespace Sys2Proof

/-! Command words by their fields -/

/-- The OP field of each command (R81). -/
def Command.op : Command → Byte
  | .nop => 0x00
  | .build => 0x01
  | .start => 0x02
  | .fold _ => 0x03
  | .final => 0x04
  | .foldRange => 0x05
  | .store => 0x06
  | .compute => 0x07

/-- The ARG field of each command: the byte of FOLD, and 0 for every other (R82). -/
def Command.arg : Command → Byte
  | .fold b => b
  | _ => 0

theorem encode_toInstr (c : Command) : encode c.toInstr = .cmd (commandWord c.op c.arg) := by cases c <;> rfl

@[simp] theorem opField_commandWord (op arg : Byte) : opField (commandWord op arg) = op := by
  refine BitVec.eq_of_getLsbD_eq fun i hi => ?_
  simp [commandWord, hi, show i < 32 by omega]

@[simp] theorem argField_commandWord (op arg : Byte) : argField (commandWord op arg) = arg := by
  refine BitVec.eq_of_getLsbD_eq fun i hi => ?_
  simp [commandWord, hi, show 8 + i < 32 by omega]

@[simp] theorem rsvdField_commandWord (op arg : Byte) : rsvdField (commandWord op arg) = 0 := by
  refine BitVec.eq_of_getLsbD_eq fun i hi => ?_
  simp [commandWord, show 8 ≤ 16 + i - 8 by omega, show 8 ≤ 16 + i by omega]

/-- A word decodes to a command exactly when its fields are the command's (R80 to R84). -/
theorem decodeCommand_ok_iff {w : Word} {c : Command} :
    decodeCommand w = .ok c ↔ rsvdField w = 0 ∧ opField w = c.op ∧ argField w = c.arg := by
  constructor
  · intro h
    have hw : Request.cmd w = .cmd (commandWord c.op c.arg) :=
      (Machine.encode_of_decodeCommand h).symm.trans (encode_toInstr c)
    cases hw
    simp
  · rintro ⟨hrsvd, hop, harg⟩
    unfold decodeCommand
    rw [hrsvd, hop, harg]
    cases c <;> rfl

/-- The pairs of OP and ARG that R84 allows are those of the commands. -/
theorem exists_command_iff {op arg : Byte} :
    (∃ c : Command, op = c.op ∧ arg = c.arg) ↔ op ≤ 0x07 ∧ (op = 0x03 ∨ arg = 0) := by
  constructor
  · rintro ⟨c, rfl, rfl⟩
    cases c with
    | fold b => exact ⟨(by decide : (0x03 : Byte) ≤ 0x07), .inl rfl⟩
    | _ => exact ⟨by decide, .inr rfl⟩
  · rintro ⟨hop, harg⟩
    have hcases : op = 0 ∨ op = 1 ∨ op = 2 ∨ op = 3 ∨ op = 4 ∨ op = 5 ∨ op = 6 ∨ op = 7 := by bv_omega
    by_cases hfold : op = 0x03
    · exact ⟨.fold arg, hfold, rfl⟩
    · obtain rfl : arg = 0 := harg.resolve_left hfold
      rcases hcases with h | h | h | h | h | h | h | h
      · exact ⟨.nop, h, rfl⟩
      · exact ⟨.build, h, rfl⟩
      · exact ⟨.start, h, rfl⟩
      · exact absurd h hfold
      · exact ⟨.final, h, rfl⟩
      · exact ⟨.foldRange, h, rfl⟩
      · exact ⟨.store, h, rfl⟩
      · exact ⟨.compute, h, rfl⟩

/-- A word decodes to some command exactly when it is valid (R83 to R85). -/
theorem decodeCommand_isOk_iff {w : Word} : (∃ c, decodeCommand w = .ok c) ↔ commandWordValid w := by
  simp only [decodeCommand_ok_iff, exists_and_left, exists_command_iff]

/-- Decoding is total: a word is rejected exactly when it is not valid (R85). -/
theorem decodeCommand_error_iff {w : Word} : (∃ e, decodeCommand w = .error e) ↔ ¬ commandWordValid w := by
  rw [← decodeCommand_isOk_iff]
  cases decodeCommand w <;> simp

/-! Transactions by their register -/

theorem encode_readOf (r : Reg) : encode (readOf r) = busRead r := by cases r <;> rfl

theorem encode_writeOf (d : Word) (r : Reg) : encode (writeOf d r) = busWrite r d := by cases r <;> rfl

/-- Every aligned offset up to 0x38 is a register's (R23). -/
theorem Reg.exists_offset {o : Nat} (halign : o % 4 = 0) (hle : o ≤ 0x38) : ∃ r : Reg, r.offset = o := by
  have hmapped : (Reg.atOffset o).isSome = true := by
    have hfifteen : ∀ k < 15, (Reg.atOffset (4 * k)).isSome = true := by decide
    obtain ⟨k, rfl⟩ := Nat.dvd_of_mod_eq_zero halign
    exact hfifteen k (by omega)
  obtain ⟨r, hr⟩ := Option.isSome_iff_exists.1 hmapped
  exact ⟨r, Reg.offset_of_atOffset hr⟩

/-- A word access at a register's offset decodes, whatever its direction and its data (R88). -/
theorem decodeBus_offset (dir : Dir) (r : Reg) (d : Word) :
    decodeBus ⟨dir, r.offset, 4, d⟩ = .ok (match dir with | .read => readOf r | .write => writeOf d r) := by
  cases dir <;> simp [decodeBus, (Reg.offset_mapped r).1]

theorem requestOfKey_read (r : Reg) : requestOfKey r.offset = busRead r := by cases r <;> rfl

theorem requestOfKey_write (r : Reg) : requestOfKey (0x100 + r.offset) = busWrite r 0 := by cases r <;> rfl

/-- A 16-bit table word names the instruction that its key's transaction decodes to. -/
theorem decodeTableWord_key {key : Nat} {i : Instr} (h : decode (requestOfKey key) = .ok i) :
    decodeTableWord 16 key = some i := by
  simp [decodeTableWord, tableRequest, h]

/-! Encoding, then decoding -/

theorem decode_encode_command (c : Command) : decode (encode c.toInstr) = .ok c.toInstr := by
  have hc : decodeCommand (commandWord c.op c.arg) = .ok c := decodeCommand_ok_iff.2 (by simp)
  simp [encode_toInstr, decode, hc, Except.map]

/-- The encoding of an instruction decodes to it: a command by its fields, every other one as the Read or the Write of its
register. -/
theorem decode_encode (i : Instr) : decode (encode i) = .ok i := by
  cases i with
  | nop => exact decode_encode_command .nop
  | build => exact decode_encode_command .build
  | start => exact decode_encode_command .start
  | fold b => exact decode_encode_command (.fold b)
  | final => exact decode_encode_command .final
  | foldRange => exact decode_encode_command .foldRange
  | store => exact decode_encode_command .store
  | compute => exact decode_encode_command .compute
  | _ => simp only [encode, decode_busRead, decode_busWrite, readOf, writeOf]

end Sys2Proof

namespace Sys2Proof.Machine

/-- A Read transaction that decodes is the encoding of its instruction, but for its data (R88). -/
theorem encode_of_decodeBus_read {x : Transaction} {i : Instr} (h : decodeBus x = .ok i) (hdir : x.dir = .read) :
    encode i = .bus { x with data := 0 } := by
  obtain ⟨dir, offset, size, data⟩ := x
  cases hdir
  obtain ⟨rfl, r, rfl, ⟨-, rfl⟩ | ⟨hwrite, -⟩⟩ := decodeBus_ok h
  · exact encode_readOf r
  · cases hwrite

/-- Settles O5: commands by their fields, bus accesses by their registers, each in both directions. -/
theorem decodeAndEncodeAgree : Obligations.DecodeAndEncodeAgree := by
  refine ⟨decode_encode, fun w i h => ?_, fun x i h => ⟨encode_of_decodeBus_write h, encode_of_decodeBus_read h⟩⟩
  obtain ⟨c, hc, rfl⟩ := decode_cmd_ok h
  exact encode_of_decodeCommand hc

/-- Settles O8: each command's OP and ARG, read off the opcode map. -/
theorem decodeCommandFollowsTheOpcodeMap : Obligations.DecodeCommandFollowsTheOpcodeMap := by
  intro w hrsvd
  have hok (c : Command) : decodeCommand w = .ok c ↔ opField w = c.op ∧ argField w = c.arg := by
    rw [decodeCommand_ok_iff, and_iff_right hrsvd]
  refine ⟨fun b => hok (.fold b), fun harg => ?_⟩
  have hop (c : Command) (hc : c.arg = 0) : decodeCommand w = .ok c ↔ opField w = c.op := by
    rw [hok, and_iff_left (harg.trans hc.symm)]
  exact ⟨hop .nop rfl, hop .build rfl, hop .start rfl, hop .final rfl, hop .foldRange rfl, hop .store rfl, hop .compute rfl⟩

/-- Settles O9: the well-formed transactions are the word accesses at the registers' offsets, and each key is one of them. -/
theorem busDecodesExactlyTheWellFormed : Obligations.BusDecodesExactlyTheWellFormed := by
  refine ⟨fun x => ⟨?_, ?_⟩, fun r => ⟨?_, ?_⟩⟩
  · rintro ⟨i, hi⟩
    obtain ⟨hsize, r, hoffset, -⟩ := decodeBus_ok hi
    exact ⟨hsize, hoffset ▸ Reg.offset_mapped r⟩
  · obtain ⟨dir, offset, size, data⟩ := x
    rintro ⟨rfl, halign, hle⟩
    obtain ⟨r, rfl⟩ := Reg.exists_offset halign hle
    exact ⟨_, decodeBus_offset dir r data⟩
  · exact decodeTableWord_key (by rw [requestOfKey_read, decode_busRead])
  · exact decodeTableWord_key (by rw [requestOfKey_write, decode_busWrite])

/-- Settles O6: each word is the encoding of its instruction. -/
theorem sampleWordsDecode : Obligations.SampleWordsDecode :=
  ⟨decode_encode .nop, decode_encode .build, decode_encode (.fold 0x31), decode_encode .compute,
    decode_encode .rdTblData, decode_encode (.wrCtrl 0x00000026), decode_encode (.wrCmd 0x00003103)⟩

end Sys2Proof.Machine
end

section
/-! SUPPORT. A bare command word and the write of that word to CMD: one effect, in a step as in an instruction. -/

namespace Sys2Proof.Machine

/-- The decoder rejects a command word for one of three reasons, and each is an ERR_CMD (R85, R222). -/
theorem rejectRequest_of_decodeCommand {w : Word} {e : DecodeError} (h : decodeCommand w = .error e) (s : State) :
    rejectRequest e s = .next (setFlag .errCmd s) := by
  unfold decodeCommand at h
  split at h
  · cases h; rfl
  split at h
  · cases h; rfl
  split at h
  · cases h; rfl
  split at h <;> cases h
  rfl

/-- A bare command word does what the write of it to CMD does, valid or not (R89, R112). -/
theorem actionOutcome_cmd (w : Word) (s : State) : actionOutcome s (.request (.cmd w)) = exec (.wrCmd w) s := by
  change _ = execWrCmd w s
  rcases execWrCmd_cases w s with ⟨c, hc, he⟩ | ⟨e, hc, he⟩
  · rw [he]
    exact actionOutcome_request (by simp [decode, hc, Except.map])
  · rw [he, ← rejectRequest_of_decodeCommand hc]
    simp [actionOutcome, decode, hc, Except.map]

theorem actionOutcome_lineWr (r : Reg) (d : Word) (s : State) : actionOutcome s (lineWr r d) = exec (writeOf d r) s :=
  actionOutcome_request (decode_busWrite r d)

/-- A step looks at its next action in two ways only: whether BUSY forbids it, and what it does (R70, R263). -/
theorem step_of_pending {s : State} {a : HostAction} {rest : List HostAction} (hp : s.pending = a :: rest) :
    step s = if busyForbids a { s with pending := rest } then .fault .busyAccess
      else actionOutcome { s with pending := rest } a := by
  split
  · rename_i hforbidden
    have hf : fetch s = some (a, { s with pending := rest }) := fetch_some.2 ⟨rest, hp, rfl⟩
    simp only [step, hf, hforbidden, if_true]
  · exact step_of_allowed hp (Bool.eq_false_iff.2 ‹_›)

/-- Settles O12: neither form is a read of STATUS, and both have one outcome. -/
theorem cmdLineIsTheWriteOfCmd : Obligations.CmdLineIsTheWriteOfCmd := by
  intro s w rest
  have hbusy (u : State) : busyForbids (.request (.cmd w)) u = busyForbids (lineWr .cmd w) u := rfl
  have hdo (u : State) : actionOutcome u (.request (.cmd w)) = actionOutcome u (lineWr .cmd w) :=
    (actionOutcome_cmd w u).trans (actionOutcome_lineWr .cmd w u).symm
  rw [step_of_pending (a := .request (.cmd w)) (rest := rest) rfl,
    step_of_pending (a := lineWr .cmd w) (rest := rest) rfl, hbusy, hdo]

/-- The write of an invalid command word sets ERR_CMD, bit 5, and changes nothing else (R85, R222). -/
theorem exec_wrCmd_of_error {w : Word} {e : DecodeError} (h : decodeCommand w = .error e) (s : State) :
    exec (.wrCmd w) s = .next { s with status := s.status ||| 0x00000020 } := by
  change execWrCmd w s = .next (setFlag .errCmd s)
  rcases execWrCmd_cases w s with ⟨c, hc, -⟩ | ⟨-, -, he⟩
  · rw [h] at hc; cases hc
  · exact he

/-- Settles O7: the invalid words are those that are not valid, and both forms of such a word are rejected alike. -/
theorem invalidCommandWordOnlySetsErrCmd : Obligations.InvalidCommandWordOnlySetsErrCmd := by
  refine fun w => ⟨?_, ?_⟩
  · rw [decodeCommand_error_iff]
    simp only [commandWordValid, not_and_or, not_or, BitVec.not_le, ne_eq]
  · rintro ⟨e, he⟩ s rest
    refine ⟨exec_wrCmd_of_error he s, fun hbusy hp => ?_⟩
    rw [step_of_not_busy hp hbusy, actionOutcome_cmd, exec_wrCmd_of_error he]

end Sys2Proof.Machine
end

section
/-! SUPPORT. The expansions of the pseudo-instructions, run one line a step (R90). -/

namespace Sys2Proof.Machine

/-! The words that the expansions write -/

/-- What the write of `cfg`'s word leaves in CTRL has the fields that `cfg` names (R90, R101). -/
theorem cfgWord_fields (w : CrcWidth) (rin rout big ren : Bool) :
    let c := cfgWord w rin rout big ren &&& ctrlMask
    crcWidth c = some w ∧ refin c = rin ∧ refout c = rout ∧ endianBig c = big ∧ rangeEn c = ren := by
  revert rin rout big ren
  cases w <;> decide

/-- The word of `clrstat` clears the bits from 4 up, which are the sticky ones, and no other (R39, R111). -/
theorem flag_clrstat (f : StatusBit) (s : State) :
    flag f (clearSticky 0x000001F0 s) = (flag f s && decide (statusIndex f < 4)) := by
  have hbit : (0x000001F0 : Word).getLsbD (statusIndex f) = decide (4 ≤ statusIndex f) := by cases f <;> decide
  rw [flag_clearSticky, hbit, Bool.and_self, ← decide_not, decide_eq_decide.2 not_le]

/-! Lines, one a step -/

/-- A `wr` line is one step: the write, with the line taken off the list. -/
theorem step_lineWr {s : State} {r : Reg} {d : Word} {rest : List HostAction} (hbusy : flag .busy s = false)
    (hp : s.pending = lineWr r d :: rest) : step s = exec (writeOf d r) { s with pending := rest } := by
  rw [step_of_not_busy hp hbusy, actionOutcome_lineWr]

/-- A `cmd` line is one step: the command, with the line taken off the list. -/
theorem step_lineCmd {s : State} {c : Command} {rest : List HostAction} (hbusy : flag .busy s = false)
    (hp : s.pending = lineCmd c :: rest) : step s = exec c.toInstr { s with pending := rest } := by
  rw [step_of_not_busy hp hbusy]
  exact actionOutcome_request (decode_encode_command c)

/-! FOLD, again and again -/

theorem execFold_of_ready {s : State} {w : CrcWidth} (b : Byte) (hw : crcWidth s.ctrl = some w)
    (hready : (flag .tableValid s && flag .accValid s) = true) : exec (.fold b) s = .next (foldBody w b s) := by
  change execFold b s = _
  unfold execFold
  rw [withWidth_some hw, if_pos hready]

theorem execFold_of_not_ready {s : State} {w : CrcWidth} (b : Byte) (hw : crcWidth s.ctrl = some w)
    (hready : (flag .tableValid s && flag .accValid s) = false) : exec (.fold b) s = .next (setFlag .errSeq s) := by
  change execFold b s = _
  unfold execFold
  rw [withWidth_some hw, hready]
  rfl

/-- FOLD always completes, leaves BUSY as it was, and neither reads nor changes the host's list. -/
theorem execFold_next (b : Byte) (s : State) (p : List HostAction) : ∃ t, exec (.fold b) s = .next t ∧
    exec (.fold b) { s with pending := p } = .next { t with pending := p } ∧ flag .busy t = flag .busy s := by
  cases hw : crcWidth s.ctrl with
  | none => exact ⟨setFlag .errCfg s, withWidth_none hw, withWidth_none hw, by simp⟩
  | some w =>
    cases hready : flag .tableValid s && flag .accValid s with
    | false => exact ⟨_, execFold_of_not_ready b hw hready, execFold_of_not_ready b hw hready, by simp⟩
    | true => exact ⟨_, execFold_of_ready b hw hready, execFold_of_ready b hw hready, by simp⟩

/-- The lines of `folds` run as the FOLD instructions of its bytes (R90). -/
theorem runSteps_pseudoFolds {rest : List HostAction} : ∀ {text : List Byte} {s : State}, flag .busy s = false →
    s.pending = pseudoFolds text ++ rest →
      runSteps text.length s = execAll (text.map .fold) { s with pending := rest }
  | [], s, _, hp => by rw [show rest = s.pending from hp.symm]; rfl
  | b :: text, s, hbusy, hp => by
    obtain ⟨t, hrest, hlines, hkept⟩ := execFold_next b { s with pending := rest } (pseudoFolds text ++ rest)
    have hstep : step s = .next { t with pending := pseudoFolds text ++ rest } :=
      (step_lineCmd (c := .fold b) hbusy hp).trans hlines
    have hpending : t = { t with pending := rest } := by
      rcases execFold_cases hrest with ⟨-, rfl⟩ | ⟨w, -, ⟨-, rfl⟩ | ⟨-, rfl⟩⟩ <;> rfl
    calc runSteps (b :: text).length s
        = runSteps text.length { t with pending := pseudoFolds text ++ rest } := runSteps_succ_next hstep
      _ = execAll (text.map .fold) { t with pending := rest } := runSteps_pseudoFolds (hkept.trans hbusy) rfl
      _ = execAll ((b :: text).map .fold) { s with pending := rest } := by
        rw [← hpending]; exact (execAll_cons_next hrest).symm

/-- FOLDs in a row, with a usable width and with table and accumulator valid, fold their bytes in order (R162). -/
theorem execAll_folds {w : CrcWidth} : ∀ {text : List Byte} {s : State}, crcWidth s.ctrl = some w →
    (flag .tableValid s && flag .accValid s) = true →
      execAll (text.map .fold) s = .next { s with acc := text.foldl (crcFold w (refin s.ctrl) s.tbl) s.acc }
  | [], _, _, _ => rfl
  | b :: _, s, hw, hready =>
    (execAll_cons_next (execFold_of_ready b hw hready)).trans (execAll_folds (s := foldBody w b s) hw hready)

/-! The six expansions -/

section
variable {s : State} {rest : List HostAction}

/-- A `wr` line at the head of the list, then the other steps. -/
theorem runSteps_lineWr {n : Nat} {r : Reg} {d : Word} {t : State} (hbusy : flag .busy s = false)
    (hp : s.pending = lineWr r d :: rest) (hexec : exec (writeOf d r) { s with pending := rest } = .next t) :
    runSteps (n + 1) s = runSteps n t :=
  runSteps_succ_next ((step_lineWr hbusy hp).trans hexec)

/-- `cfg` leaves the implemented bits of its word in CTRL and touches only STATUS besides (R101). -/
theorem step_pseudoCfg (hbusy : flag .busy s = false) {w : CrcWidth} {rin rout big ren : Bool}
    (hp : s.pending = pseudoCfg w rin rout big ren ++ rest) : ∃ t, step s = .next t ∧
      t = { s with pending := rest, ctrl := t.ctrl, status := t.status } ∧
      t.ctrl = cfgWord w rin rout big ren &&& ctrlMask := by
  rw [step_lineWr hbusy hp]
  change ∃ t, execWrCtrl _ _ = .next t ∧ _
  rw [execWrCtrl_eq]
  split
  · exact ⟨_, rfl, rfl, rfl⟩
  · exact ⟨_, rfl, rfl, rfl⟩

/-- `params` writes its three registers, and the write of POLY clears TABLE_VALID, bit 1 (R102 to R104). -/
theorem runSteps_pseudoParams (hbusy : flag .busy s = false) {poly init xorout : Word}
    (hp : s.pending = pseudoParams poly init xorout ++ rest) :
    runSteps 3 s = .next { s with
      pending := rest, poly := poly, init := init, xorout := xorout, status := s.status &&& 0xFFFFFFFD } := by
  have hcleared : flag .busy (clearFlag .tableValid s) = false := by simp [hbusy]
  calc runSteps 3 s
      = runSteps 2 { s with
          pending := lineWr .init init :: lineWr .xorout xorout :: rest, poly := poly,
          status := (clearFlag .tableValid s).status } := runSteps_lineWr hbusy hp rfl
    _ = runSteps 1 { s with
          pending := lineWr .xorout xorout :: rest, poly := poly, init := init,
          status := (clearFlag .tableValid s).status } := runSteps_lineWr hcleared rfl rfl
    _ = _ := runSteps_lineWr hcleared rfl rfl

theorem runSteps_pseudoImage (hbusy : flag .busy s = false) {lo hi : Word} (hp : s.pending = pseudoImage lo hi ++ rest) :
    runSteps 2 s = .next { s with pending := rest, imgLow := lo, imgHigh := hi } :=
  calc runSteps 2 s
      = runSteps 1 { s with pending := lineWr .imgHigh hi :: rest, imgLow := lo } := runSteps_lineWr hbusy hp rfl
    _ = _ := runSteps_lineWr hbusy rfl rfl

theorem runSteps_pseudoRange (hbusy : flag .busy s = false) {a e : Word} (hp : s.pending = pseudoRange a e ++ rest) :
    runSteps 2 s = .next { s with pending := rest, rstart := a, rend := e } :=
  calc runSteps 2 s
      = runSteps 1 { s with pending := lineWr .rend e :: rest, rstart := a } := runSteps_lineWr hbusy hp rfl
    _ = _ := runSteps_lineWr hbusy rfl rfl

theorem step_pseudoClrstat (hbusy : flag .busy s = false) (hp : s.pending = pseudoClrstat ++ rest) :
    step s = .next (clearSticky 0x000001F0 { s with pending := rest }) :=
  step_lineWr hbusy hp

end

/-- Settles O53, one expansion at a time: the bus writes line by line, `folds` by induction on its text. -/
theorem pseudoInstructionsDoWhatTheyName : Obligations.PseudoInstructionsDoWhatTheyName := by
  intro s rest hbusy
  refine ⟨fun w rin rout big ren hp => ?_, fun _ _ _ => runSteps_pseudoParams hbusy, fun _ _ => runSteps_pseudoImage hbusy,
    fun _ _ => runSteps_pseudoRange hbusy, fun text hp => ⟨runSteps_pseudoFolds hbusy hp, fun w hw htable hacc => ?_⟩,
    fun hp => ⟨_, step_pseudoClrstat hbusy hp, rfl, fun f hf => ?_, fun f hf => ?_⟩⟩
  · obtain ⟨t, hstep, hframe, hctrl⟩ := step_pseudoCfg hbusy hp
    exact ⟨t, hstep, hframe, hctrl ▸ cfgWord_fields w rin rout big ren⟩
  · have hready : (flag .tableValid s && flag .accValid s) = true := by rw [htable, hacc]; rfl
    rw [runSteps_pseudoFolds hbusy hp]
    exact execAll_folds (s := { s with pending := rest }) hw hready
  · have hsticky : ¬ statusIndex f < 4 := by revert f; decide
    rw [flag_clrstat, decide_eq_false hsticky, Bool.and_false]
  · have hvalid : statusIndex f < 4 := by revert f; decide
    rw [flag_clrstat, decide_eq_true hvalid, Bool.and_true]
    rfl

end Sys2Proof.Machine
end

section
/-! SUPPORT. What each command answers, forwards: its first failing check decides, and its body runs when none fails. -/

namespace Sys2Proof.Machine

/-- With the reserved width every command but NOP is rejected with ERR_CFG (R223). -/
theorem exec_command_of_no_width {c : Command} {s : State} (hw : crcWidth s.ctrl = none) (hc : c ≠ .nop) :
    exec c.toInstr s = .next (setFlag .errCfg s) := by
  cases c with
  | nop => exact absurd rfl hc
  | _ => exact withWidth_none hw

/-- At a usable width a command sets the bit of its first failing check, and runs its body when none fails (R221, R228). -/
theorem exec_command_eq {s : State} {w : CrcWidth} (hw : crcWidth s.ctrl = some w) (c : Command) :
    exec c.toInstr s = (firstError c s).elim (finish (commandBody w s c)) fun e => .next (setFlag e s) := by
  cases c with
  | nop => rfl
  | build => exact (withWidth_some hw).trans (by simp [firstError, hw, commandBody, finish])
  | start => exact (withWidth_some hw).trans (by simp [firstError, hw, commandBody, finish])
  | fold b =>
    refine (withWidth_some hw).trans ?_
    cases hready : flag .tableValid s && flag .accValid s <;> simp [firstError, hw, hready, commandBody, finish]
  | final =>
    refine (withWidth_some hw).trans ?_
    cases hready : flag .accValid s <;> simp [firstError, hw, hready, commandBody, finish]
  | foldRange =>
    refine (withWidth_some hw).trans ?_
    cases hready : flag .tableValid s && flag .accValid s
    · simp [firstError, hw, hready]
    · by_cases himage : s.imgHigh.toNat < s.imgLow.toNat <;> simp [firstError, hw, hready, noImage, himage, commandBody]
  | store =>
    refine (withWidth_some hw).trans ?_
    cases hready : flag .resultValid s
    · simp [firstError, hw, hready]
    · cases hok : storeOk w s <;> simp [firstError, hw, hready, hok, commandBody]
  | compute =>
    refine (withWidth_some hw).trans ?_
    by_cases himage : s.imgHigh.toNat < s.imgLow.toNat
    · simp [firstError, hw, noImage, himage]
    · cases hok : storeOk w s <;> simp [firstError, hw, noImage, himage, hok, commandBody]

/-- A command whose first failing check is `e` sets the bit of `e` and nothing else (R221, R228). -/
theorem exec_of_firstError {c : Command} {s : State} {e : StatusBit} (h : firstError c s = some e) :
    exec c.toInstr s = .next (setFlag e s) := by
  cases hw : crcWidth s.ctrl with
  | some w => rw [exec_command_eq hw, h]; rfl
  | none =>
    have hc : c ≠ .nop := by rintro rfl; cases h
    have he : firstError c s = some .errCfg := by cases c <;> simp_all [firstError]
    rw [exec_command_of_no_width hw hc, Option.some.inj (h.symm.trans he)]

/-- A command whose checks all pass at the width `w` runs its body (R221). -/
theorem exec_of_firstError_none {c : Command} {s : State} {w : CrcWidth} (hw : crcWidth s.ctrl = some w)
    (h : firstError c s = none) : exec c.toInstr s = finish (commandBody w s c) := by
  rw [exec_command_eq hw, h]; rfl

end Sys2Proof.Machine
end

section
/-! SUPPORT. The bus accesses: what a transaction is rejected for, what each register write stores and each register read answers,
and what the commands make of the values written. -/

namespace Sys2Proof.Machine

/-! Ill-formed transactions -/

/-- The decoder rejects a transaction for one of three reasons, and each is a bus error (R116). -/
theorem rejectRequest_of_decodeBus {x : Transaction} {e : DecodeError} (h : decodeBus x = .error e) (s : State) :
    rejectRequest e s = .fault .busError := by
  unfold decodeBus at h
  split at h
  · cases h; rfl
  split at h
  · cases h; rfl
  split at h
  · cases h; rfl
  split at h <;> cases h

/-- A transaction that is not well-formed has no instruction, so carrying it out is the bus error (R88, R116). -/
theorem actionOutcome_of_not_wellFormed {x : Transaction} (h : ¬ x.wellFormed) (s : State) :
    actionOutcome s (.request (.bus x)) = .fault .busError := by
  cases hx : decodeBus x with
  | ok i =>
    obtain ⟨hsize, r, hoffset, -⟩ := decodeBus_ok hx
    exact absurd ⟨hsize, hoffset ▸ Reg.offset_mapped r⟩ h
  | error e =>
    rw [← rejectRequest_of_decodeBus hx s]
    simp [actionOutcome, decode, hx]

/-- Settles O13: the three cases are the transactions that are not well-formed, and at BUSY = 0 the step carries them out. -/
theorem illFormedTransactionIsABusError : Obligations.IllFormedTransactionIsABusError := by
  intro s x rest hp hbusy hill
  have hnot : ¬ x.wellFormed := by
    rintro ⟨hsize, halign, hle⟩
    omega
  rw [step_of_not_busy hp hbusy, actionOutcome_of_not_wellFormed hnot]

/-! The word that a write of CTRL stores -/

@[simp] theorem widthField_and_ctrlMask (d : Word) : widthField (d &&& ctrlMask) = widthField d :=
  BitVec.extractLsb'_and.trans BitVec.and_allOnes

@[simp] theorem refin_and_ctrlMask (d : Word) : refin (d &&& ctrlMask) = refin d :=
  BitVec.getLsbD_and.trans (Bool.and_true _)

/-- A word whose reserved bits are 0 is stored whole (R24, R101). -/
theorem and_ctrlMask_of_reserved {d : Word} (h : d &&& 0xFFFFFFC0 = 0) : d &&& ctrlMask = d :=
  calc d &&& ctrlMask
      = (d &&& ctrlMask) ||| (d &&& 0xFFFFFFC0) := by rw [h]; exact BitVec.or_zero.symm
    _ = d &&& (ctrlMask ||| 0xFFFFFFC0) := BitVec.and_or_distrib_left.symm
    _ = d := BitVec.and_allOnes

/-- The validity bits are bits 1 to 3 of STATUS (R36, R101). -/
theorem clearValid_eq (s : State) : clearValid s = { s with status := s.status &&& 0xFFFFFFF1 } := by
  have hmask : (clearValid s).status = s.status &&& 0xFFFFFFF1 := by
    rw [clearValid_status, BitVec.and_assoc, BitVec.and_assoc]; rfl
  rw [← hmask]; rfl

/-- Settles O22: the write compares only WIDTH and REFIN with the new word, and the mask keeps both. -/
theorem ctrlWriteInvalidatesOnWidthOrRefin : Obligations.CtrlWriteInvalidatesOnWidthOrRefin := by
  have hwrite (s : State) (d : Word) : exec (.wrCtrl d) s = .next { s with
      ctrl := d &&& ctrlMask
      status := if widthField d ≠ widthField s.ctrl ∨ refin d ≠ refin s.ctrl
        then s.status &&& 0xFFFFFFF1 else s.status } := by
    change execWrCtrl d s = _
    rw [execWrCtrl_eq, widthField_and_ctrlMask, refin_and_ctrlMask, clearValid_eq]
    split <;> rfl
  refine ⟨hwrite, fun s hreserved => ?_, (hwrite _ _).trans rfl⟩
  rw [hwrite, and_ctrlMask_of_reserved hreserved, if_neg (by simp)]

/-! Bounds in the wrong order -/

/-- Without an image no store fits (R182). -/
theorem storeOk_of_noImage {s : State} (himage : s.imgHigh.toNat < s.imgLow.toNat) (w : CrcWidth) : storeOk w s = false :=
  decide_eq_false fun ⟨hle, _⟩ => by omega

/-- Without an image FOLDRANGE, STORE and COMPUTE fail with ERR_ADDR, once the checks before it pass (R225, R228). -/
theorem firstError_of_noImage {c : Command} {s : State} {w : CrcWidth} (hw : crcWidth s.ctrl = some w)
    (himage : s.imgHigh.toNat < s.imgLow.toNat)
    (hc : c = .compute ∨ c = .store ∧ flag .resultValid s = true ∨
      c = .foldRange ∧ flag .tableValid s = true ∧ flag .accValid s = true) : firstError c s = some .errAddr := by
  rcases hc with rfl | ⟨rfl, hresult⟩ | ⟨rfl, htable, hacc⟩
  · simp [firstError, hw, himage]
  · simp [firstError, hw, hresult, storeOk_of_noImage himage w]
  · simp [firstError, hw, htable, hacc, himage]

/-- A requested end below the requested start leaves no address in the effective range (R9, R164). -/
theorem rangeLength_of_inverted {s : State} (h : requestedEnd s < requestedStart s) : rangeLength s = 0 := by
  unfold rangeLength effEnd effStart
  omega

/-- FOLDRANGE of an empty range folds nothing: only CLIPPED can change (R163). -/
theorem foldRangeBody_of_empty {s : State} (w : CrcWidth) (h : rangeLength s = 0) :
    foldRangeBody w s = .ok (reportClip s) := by
  unfold foldRangeBody
  rw [h]; rfl

/-- FOLDRANGE with RANGE_EN set and REND below RSTART folds nothing, once its checks pass (R106, R164). -/
theorem exec_foldRange_of_inverted {s : State} {w : CrcWidth} (hw : crcWidth s.ctrl = some w)
    (hpass : firstError .foldRange s = none) (hrange : rangeEn s.ctrl = true) (h : s.rend.toNat < s.rstart.toNat) :
    exec .foldRange s = .next (reportClip s) := by
  have hempty : rangeLength s = 0 := rangeLength_of_inverted (by simpa [requestedEnd, requestedStart, hrange] using h)
  exact (exec_of_firstError_none (c := .foldRange) hw hpass).trans (finish_next.2 (foldRangeBody_of_empty w hempty))

/-- After IMG_LOW was written, a command that fails with ERR_ADDR sets bit 8 and nothing else (R108, R225). -/
theorem execAll_wrImgLow_of_errAddr {c : Command} {s : State} {d : Word}
    (h : firstError c { s with imgLow := d } = some .errAddr) :
    execAll [.wrImgLow d, c.toInstr] s = .next { s with imgLow := d, status := s.status ||| 0x00000100 } :=
  (execAll_cons_next rfl).trans ((execAll_cons_next (exec_of_firstError h)).trans rfl)

/-- Settles O25: the writes check nothing; then the range is empty, or the first failing check is that of the image. -/
theorem invertedBoundsTakeEffectAtTheCommand : Obligations.InvertedBoundsTakeEffectAtTheCommand := by
  refine fun s d w hw => ⟨rfl, rfl, fun htable hacc hrange himage hinverted => ?_, fun hbelow => ?_⟩
  · have hpass : firstError .foldRange s = none := by simp [firstError, hw, htable, hacc, Nat.not_lt.2 himage]
    have hfold : exec .foldRange { s with rend := d } = .next (reportClip { s with rend := d }) :=
      exec_foldRange_of_inverted hw hpass hrange hinverted
    exact ⟨_, (execAll_cons_next rfl).trans (execAll_cons_next hfold), reportClip_acc _, reportClip_image _⟩
  · have hreject {c : Command} := firstError_of_noImage (c := c) (s := { s with imgLow := d }) hw hbelow
    exact ⟨execAll_wrImgLow_of_errAddr (hreject (.inl rfl)),
      fun hresult => execAll_wrImgLow_of_errAddr (hreject (.inr (.inl ⟨rfl, hresult⟩))),
      fun htable hacc => execAll_wrImgLow_of_errAddr (hreject (.inr (.inr ⟨rfl, htable, hacc⟩)))⟩

/-! The write of STATUS -/

theorem getLsbD_stickyMask (i : Nat) : stickyMask.getLsbD i = decide (4 ≤ i ∧ i ≤ 8) := by
  by_cases hi : i < 32
  · have hbits : ∀ k < 32, stickyMask.getLsbD k = decide (4 ≤ k ∧ k ≤ 8) := by decide
    exact hbits i hi
  · rw [BitVec.getLsbD_of_ge _ _ (by omega), decide_eq_false (by omega)]

/-- A bit of STATUS falls in the write exactly when it is sticky and the data names it (R111). -/
theorem getLsbD_clearSticky (d : Word) (s : State) (i : Nat) :
    (clearSticky d s).status.getLsbD i = (s.status.getLsbD i && !(d.getLsbD i && decide (4 ≤ i ∧ i ≤ 8))) := by
  by_cases hi : i < 32
  · simp only [clearSticky, BitVec.getLsbD_and, BitVec.getLsbD_not, getLsbD_stickyMask, hi, decide_true, Bool.true_and]
  · rw [BitVec.getLsbD_of_ge _ _ (by omega), BitVec.getLsbD_of_ge _ _ (by omega), Bool.false_and]

/-- Settles O27: the mask of the sticky bits is read bit by bit. -/
theorem statusWriteClearsNamedStickyBits : Obligations.StatusWriteClearsNamedStickyBits := by
  refine ⟨fun s d => ⟨_, rfl, getLsbD_clearSticky d s⟩, fun s => ?_, fun s hs => ?_⟩
  · have hkeep : (clearSticky 0 s).status = s.status := BitVec.and_allOnes
    change Host.Outcome.next { s with status := (clearSticky 0 s).status } = _
    rw [hkeep]
  · change Host.Outcome.next { s with status := s.status &&& _ } = _
    rw [hs]; rfl

/-! The write of CMD -/

/-- The write of a valid command word is the command (R112). -/
theorem exec_wrCmd_of_ok {d : Word} {c : Command} (h : decodeCommand d = .ok c) (s : State) :
    exec (.wrCmd d) s = exec c.toInstr s := by
  change execWrCmd d s = _
  rcases execWrCmd_cases d s with ⟨c', hc, he⟩ | ⟨e, hc, -⟩ <;> rw [h] at hc <;> cases hc
  exact he

/-- Settles O29: the write is the command that the word decodes to, and each of the named words decodes by its fields. -/
theorem writeOfCmdExecutesTheCommand : Obligations.WriteOfCmdExecutesTheCommand := by
  refine ⟨fun d c s hd => exec_wrCmd_of_ok hd s, exec_wrCmd_of_ok (c := .nop) rfl, fun s w hw => ⟨?_, ?_, fun htable hacc => ?_⟩,
    exec_wrCmd_of_error (e := .reservedOpcode) rfl⟩
  · have hbuild : exec (.wrCmd 0x00000001) s = .next (buildBody w s) :=
      (exec_wrCmd_of_ok (c := .build) rfl s).trans (withWidth_some hw)
    exact ⟨_, hbuild, tableAt_tableOf _⟩
  · have hstart : exec (.wrCmd 0x00000002) s = .next (startBody w s) :=
      (exec_wrCmd_of_ok (c := .start) rfl s).trans (withWidth_some hw)
    exact ⟨_, hstart, rfl⟩
  · have hready : (flag .tableValid s && flag .accValid s) = true := by rw [htable, hacc]; rfl
    exact (exec_wrCmd_of_ok (c := .fold 0x31) rfl s).trans (execFold_of_ready 0x31 hw hready)

/-! The reads of the registers -/

/-- A field reads 0 when a mask that covers it does. -/
theorem extractLsb'_of_and_eq_zero {v m : Word} {start len : Nat} (h : v &&& m = 0)
    (hm : m.extractLsb' start len = BitVec.allOnes len) : v.extractLsb' start len = 0 := by
  have hfield : v.extractLsb' start len &&& m.extractLsb' start len = (0 : Word).extractLsb' start len := by
    rw [← BitVec.extractLsb'_and, h]
  rw [hm, BitVec.and_allOnes] at hfield
  rw [hfield]
  exact BitVec.extractLsb'_zero

/-- A byte shown as a register is its bits [7:0], and the bits above read 0 (R41, R100). -/
theorem byte_as_word_fields (b : Byte) :
    (b.setWidth 32).extractLsb' 0 8 = b ∧ (b.setWidth 32).extractLsb' 8 24 = 0 := by
  constructor <;> refine BitVec.eq_of_getLsbD_eq fun i hi => ?_
  · simp [hi, show i < 32 by omega]
  · simp

/-- Settles O18: each read is one answer; the reserved bits are the invariant's. -/
theorem storageReadsReturnTheRegister : Obligations.StorageReadsReturnTheRegister := by
  intro s
  have hreserved (h : s.Inv) : s.ctrl.extractLsb' 6 26 = 0 ∧ s.status.extractLsb' 9 23 = 0 :=
    ⟨extractLsb'_of_and_eq_zero h.ctrl_reserved rfl, extractLsb'_of_and_eq_zero h.status_reserved rfl⟩
  exact ⟨rfl, rfl, rfl, rfl, rfl, rfl, rfl, rfl, rfl, rfl, rfl, rfl, ⟨_, rfl, byte_as_word_fields s.tblIdx⟩, hreserved, rfl⟩

/-- Settles O19: CMD stores nothing, so its read answers the constant 0. -/
theorem readOfCmdReturnsZero : Obligations.ReadOfCmdReturnsZero := fun _ => rfl

/-! The other writes -/

/-- Settles O23: TABLE_VALID is bit 1 of STATUS, and the read after the write changes no bit. -/
theorem polyWriteClearsTableValid : Obligations.PolyWriteClearsTableValid := by
  refine ⟨fun _ _ => rfl, fun s => ⟨_, rfl, rfl, ?_⟩⟩
  rw [flag_respond, flag_clearFlag]
  exact Bool.and_false _

/-- Settles O24: each of these writes is the update of one field. -/
theorem configurationWritesStoreTheWord : Obligations.ConfigurationWritesStoreTheWord :=
  fun _ _ => ⟨rfl, rfl, rfl, rfl, rfl, rfl, rfl⟩

/-- Settles O26: each of these writes answers the state it finds. -/
theorem readOnlyWritesAreIgnored : Obligations.ReadOnlyWritesAreIgnored :=
  fun _ _ => ⟨rfl, rfl, rfl⟩

/-- Settles O28: the 8 bits that TBL_IDX keeps are the low byte of the data. -/
theorem tblIdxWriteKeepsEightBits : Obligations.TblIdxWriteKeepsEightBits := by
  refine ⟨fun s d => ?_, fun s => ⟨rfl, _, rfl, rfl⟩⟩
  rw [← BitVec.setWidth_eq_extractLsb' (by decide)]
  rfl

end Sys2Proof.Machine
end

section
/-! SUPPORT. The table: one equation for each construction, its steps linear in what they shift (R143), the steps under a zero
polynomial (R142), and the walk of a single bit out of the width (R144); then BUILD, which fills it (R140). -/

namespace Sys2Proof.Machine

/-! The two constructions -/

theorem tblEntry_normal (w : CrcWidth) (poly : Word) (i : Byte) :
    tblEntry w false poly i = times 8 (normalStep w (poly &&& widthMask w)) (i.setWidth 32 <<< (widthBits w - 8)) := rfl

theorem tblEntry_reflected (w : CrcWidth) (poly : Word) (i : Byte) :
    tblEntry w true poly i = times 8 (reflectedStep (reflect w (poly &&& widthMask w))) (i.setWidth 32) := rfl

/-- The construction sees the polynomial through the width mask only. -/
theorem tblEntry_congr {w : CrcWidth} {poly poly' : Word} (h : poly' &&& widthMask w = poly &&& widthMask w) (ref : Bool)
    (i : Byte) : tblEntry w ref poly' i = tblEntry w ref poly i := by
  unfold tblEntry
  rw [h]

/-! Linearity -/

/-- What both steps do, a shift and the polynomial under one bit, is linear in the bit and the shifted value together. -/
theorem ite_xor_xor (p u v : Word) (x y : Bool) :
    (if (x ^^ y) = true then (u ^^^ v) ^^^ p else u ^^^ v) =
      (if x = true then u ^^^ p else u) ^^^ (if y = true then v ^^^ p else v) := by
  match x, y with
  | false, false => rfl
  | false, true => exact BitVec.xor_assoc u v p
  | true, false =>
    change u ^^^ v ^^^ p = u ^^^ p ^^^ v
    ac_rfl
  | true, true =>
    calc u ^^^ v = u ^^^ v ^^^ (p ^^^ p) := by simp
      _ = u ^^^ p ^^^ (v ^^^ p) := by ac_rfl

theorem xor_and_widthMask (w : CrcWidth) (c d : Word) :
    (c ^^^ d) &&& widthMask w = (c &&& widthMask w) ^^^ (d &&& widthMask w) :=
  BitVec.eq_of_toNat_eq (by simpa using Nat.and_xor_distrib_right)

theorem normalStep_xor (w : CrcWidth) (p c d : Word) :
    normalStep w p (c ^^^ d) = normalStep w p c ^^^ normalStep w p d := by
  unfold normalStep
  rw [BitVec.getLsbD_xor, BitVec.shiftLeft_xor_distrib, xor_and_widthMask]
  exact ite_xor_xor ..

theorem reflectedStep_xor (pr c d : Word) :
    reflectedStep pr (c ^^^ d) = reflectedStep pr c ^^^ reflectedStep pr d := by
  unfold reflectedStep
  rw [BitVec.getLsbD_xor, BitVec.ushiftRight_xor_distrib]
  exact ite_xor_xor ..

theorem times_xor {f : Word → Word} (hf : ∀ c d, f (c ^^^ d) = f c ^^^ f d) :
    ∀ (n : Nat) (c d : Word), times n f (c ^^^ d) = times n f c ^^^ times n f d
  | 0, _, _ => rfl
  | n + 1, c, d => by rw [times_succ, hf, times_xor hf n]; rfl

theorem tblEntry_xor (w : CrcWidth) (ref : Bool) (poly : Word) (a b : Byte) :
    tblEntry w ref poly (a ^^^ b) = tblEntry w ref poly a ^^^ tblEntry w ref poly b := by
  cases ref with
  | true =>
    simp only [tblEntry_reflected, BitVec.setWidth_xor]
    exact times_xor (reflectedStep_xor _) ..
  | false =>
    simp only [tblEntry_normal, BitVec.setWidth_xor, BitVec.shiftLeft_xor_distrib]
    exact times_xor (normalStep_xor w _) ..

/-- Settles O55: both constructions repeat a linear step on a value that is linear in the byte. -/
theorem tableIsLinear : Obligations.TableIsLinear := tblEntry_xor

/-- A linear table has no constant term: entry 0 is its own XOR with itself. -/
theorem tblEntry_zero (w : CrcWidth) (ref : Bool) (poly : Word) : tblEntry w ref poly 0 = 0 := by
  calc tblEntry w ref poly 0 = tblEntry w ref poly (0 ^^^ 0) := rfl
    _ = tblEntry w ref poly 0 ^^^ tblEntry w ref poly 0 := tblEntry_xor ..
    _ = 0 := BitVec.xor_self

/-! A zero polynomial -/

theorem normalStep_zero_poly (w : CrcWidth) (c : Word) : normalStep w 0 c = (c <<< 1) &&& widthMask w := by
  simp [normalStep]

theorem reflectedStep_zero_poly (c : Word) : reflectedStep 0 c = c >>> 1 := by
  simp [reflectedStep]

theorem reflect_zero (w : CrcWidth) : reflect w 0 = 0 :=
  BitVec.eq_of_getLsbD_eq fun i _ => by simp [getLsbD_reflect]

/-- A shift to the left brings no bit down into the width, so masking before it is lost in masking after it. -/
theorem and_widthMask_shiftLeft_and (w : CrcWidth) (c : Word) (n : Nat) :
    ((c &&& widthMask w) <<< n) &&& widthMask w = (c <<< n) &&& widthMask w := by
  refine BitVec.eq_of_getLsbD_eq fun i _ => ?_
  simp only [BitVec.getLsbD_and, BitVec.getLsbD_shiftLeft, getLsbD_widthMask]
  by_cases h : i < widthBits w
  · simp [show i - n < widthBits w by omega]
  · simp [h]

theorem times_normalStep_zero_poly (w : CrcWidth) : ∀ (n : Nat) (c : Word),
    times (n + 1) (normalStep w 0) c = (c <<< (n + 1)) &&& widthMask w
  | 0, c => normalStep_zero_poly w c
  | n + 1, c => by
    rw [times_succ, times_normalStep_zero_poly w n, normalStep_zero_poly, and_widthMask_shiftLeft_and,
      ← BitVec.shiftLeft_add, Nat.add_comm 1]

theorem times_reflectedStep_zero_poly : ∀ (n : Nat) (c : Word), times n (reflectedStep 0) c = c >>> n
  | 0, _ => rfl
  | n + 1, c => by
    rw [times_succ, times_reflectedStep_zero_poly n, reflectedStep_zero_poly, ← BitVec.shiftRight_add, Nat.add_comm 1]

/-- With no bit of the polynomial in the width, the eight steps only shift the byte out (R142). -/
theorem tblEntry_of_masked_zero {w : CrcWidth} {poly : Word} (h : poly &&& widthMask w = 0) (ref : Bool) (i : Byte) :
    tblEntry w ref poly i = 0 := by
  cases ref with
  | true =>
    rw [tblEntry_reflected, h, reflect_zero, times_reflectedStep_zero_poly]
    exact BitVec.eq_of_getLsbD_eq fun k _ => by simp
  | false =>
    have hw : widthBits w - 8 + 8 = widthBits w := by cases w <;> rfl
    rw [tblEntry_normal, h, times_normalStep_zero_poly, ← BitVec.shiftLeft_add, hw]
    refine BitVec.eq_of_getLsbD_eq fun k _ => ?_
    simp only [BitVec.getLsbD_and, BitVec.getLsbD_shiftLeft, getLsbD_widthMask]
    by_cases hk : k < widthBits w <;> simp [hk]

/-- Settles O54: the width bound is an invariant of the steps, entry 0 is linearity, and the polynomial enters masked. -/
theorem tableEntriesAreWidthBounded : Obligations.TableEntriesAreWidthBounded := fun w ref poly i =>
  ⟨tblEntry_lt w ref poly i, tblEntry_zero w ref poly, fun h => tblEntry_of_masked_zero h ref i,
    fun _ h => tblEntry_congr h ref i⟩

/-! A single bit -/

theorem twoPow_shiftLeft_one (k : Nat) : BitVec.twoPow 32 k <<< 1 = BitVec.twoPow 32 (k + 1) := by
  rw [BitVec.twoPow_eq, BitVec.twoPow_eq, ← BitVec.shiftLeft_add]

theorem twoPow_ushiftRight_one {k : Nat} (hk : k + 1 < 32) :
    BitVec.twoPow 32 (k + 1) >>> 1 = BitVec.twoPow 32 k :=
  BitVec.eq_of_getLsbD_eq fun i _ => by
    simp [BitVec.getLsbD_twoPow, hk, show k < 32 by omega, Nat.add_comm 1 i]

/-- Below the top of the width, the bit moves up. -/
theorem normalStep_twoPow {w : CrcWidth} {k : Nat} (p : Word) (hk : k + 1 < widthBits w) :
    normalStep w p (BitVec.twoPow 32 k) = BitVec.twoPow 32 (k + 1) := by
  have htop : ¬ k = widthBits w - 1 := by omega
  simp [normalStep, BitVec.getLsbD_twoPow, htop, twoPow_shiftLeft_one, BitVec.twoPow_and, getLsbD_widthMask, hk]

/-- At the top of the width, the bit leaves and the polynomial takes its place. -/
theorem normalStep_twoPow_top {w : CrcWidth} {k : Nat} (p : Word) (hk : k + 1 = widthBits w) :
    normalStep w p (BitVec.twoPow 32 k) = p := by
  have hk32 : k < 32 := by cases w <;> simp at hk <;> omega
  simp [normalStep, ← hk, hk32, twoPow_shiftLeft_one, BitVec.twoPow_and, getLsbD_widthMask]

/-- Above the lowest bit, the bit moves down. -/
theorem reflectedStep_twoPow {k : Nat} (pr : Word) (hk : k + 1 < 32) :
    reflectedStep pr (BitVec.twoPow 32 (k + 1)) = BitVec.twoPow 32 k := by
  simp [reflectedStep, twoPow_ushiftRight_one hk]

/-- At the lowest bit, the bit leaves and the polynomial takes its place. -/
theorem reflectedStep_twoPow_zero (pr : Word) : reflectedStep pr (BitVec.twoPow 32 0) = pr := by
  have hout : BitVec.twoPow 32 0 >>> 1 = 0 := by decide
  simp [reflectedStep, hout]

theorem times_normalStep_twoPow {w : CrcWidth} (p : Word) : ∀ {n k : Nat}, k + n + 1 = widthBits w →
    times (n + 1) (normalStep w p) (BitVec.twoPow 32 k) = p
  | 0, _, hk => normalStep_twoPow_top p hk
  | n + 1, k, hk => by
    rw [times_succ, normalStep_twoPow p (by omega)]
    exact times_normalStep_twoPow p (by omega)

theorem times_reflectedStep_twoPow (pr : Word) : ∀ {n : Nat}, n < 32 →
    times (n + 1) (reflectedStep pr) (BitVec.twoPow 32 n) = pr
  | 0, _ => reflectedStep_twoPow_zero pr
  | n + 1, hn => by
    rw [times_succ, reflectedStep_twoPow pr hn]
    exact times_reflectedStep_twoPow pr (by omega)

/-- The single bit enters 8 below the top of the width, so that it leaves in the last step (R144). -/
theorem tblEntry_normal_one (w : CrcWidth) (poly : Word) : tblEntry w false poly 0x01 = poly &&& widthMask w := by
  have hstart : (0x01 : Byte).setWidth 32 <<< (widthBits w - 8) = BitVec.twoPow 32 (widthBits w - 8) :=
    (BitVec.twoPow_eq ..).symm
  rw [tblEntry_normal, hstart]
  exact times_normalStep_twoPow (n := 7) _ (by cases w <;> rfl)

/-- The single bit enters at bit 7, so that it leaves in the last step (R144). -/
theorem tblEntry_reflected_top (w : CrcWidth) (poly : Word) :
    tblEntry w true poly 0x80 = reflect w (poly &&& widthMask w) :=
  times_reflectedStep_twoPow (n := 7) _ (by decide)

/-- Settles O56: the single bit walks out of the width in the last of the eight steps. -/
theorem tableHoldsThePolynomial : Obligations.TableHoldsThePolynomial := fun w poly =>
  ⟨tblEntry_normal_one w poly, tblEntry_reflected_top w poly⟩

/-! BUILD -/

/-- Setting a field that reads 1 changes nothing. -/
theorem setFlag_of_flag {f : StatusBit} {s : State} (h : flag f s = true) : setFlag f s = s := by
  have hword : s.status ||| statusWord f = s.status := by
    refine BitVec.eq_of_getLsbD_eq fun i _ => ?_
    rw [BitVec.getLsbD_or, statusWord, ← BitVec.twoPow_eq, BitVec.getLsbD_twoPow]
    by_cases hi : statusIndex f = i
    · subst hi
      rw [show s.status.getLsbD (statusIndex f) = true from h, Bool.true_or]
    · simp [hi]
  rw [setFlag, hword]

theorem exec_build_of_width {s : State} {w : CrcWidth} (hw : crcWidth s.ctrl = some w) :
    exec .build s = .next (buildBody w s) := withWidth_some hw

/-- A valid table is the one BUILD would make (R38), so building it again is setting a bit that is set. -/
theorem buildBody_of_tableValid {s : State} {w : CrcWidth} (h : s.Inv) (hw : crcWidth s.ctrl = some w)
    (hvalid : flag .tableValid s = true) : buildBody w s = s := by
  unfold buildBody
  rw [← h.table_valid w hw hvalid]
  exact setFlag_of_flag hvalid

/-- Settles O31: with a usable width BUILD is its body; under the invariant a valid table has a usable width and is rebuilt as
it is. -/
theorem buildFillsTheTable : Obligations.BuildFillsTheTable := by
  refine ⟨fun s w hw => ⟨_, exec_build_of_width hw, tableAt_tableOf _⟩, fun s hw => withWidth_none hw,
    fun s hinv hvalid => ?_, tblEntry_normal_one .w16 _, by decide +kernel⟩
  cases hw : crcWidth s.ctrl with
  | none =>
    obtain ⟨hinvalid, -⟩ := hinv.invalid_width hw
    rw [hvalid] at hinvalid
    cases hinvalid
  | some w => rw [exec_build_of_width hw, buildBody_of_tableValid hinv hw hvalid]

end Sys2Proof.Machine
end

section
/-! SUPPORT. The width mask and START: what the mask leaves of a word, and the two variants of what START loads (R10, R160). -/

namespace Sys2Proof.Machine

theorem widthBits_le (w : CrcWidth) : widthBits w ≤ 32 := by cases w <;> decide

/-- The mask cuts a word to its low `W` bits (R10). -/
theorem and_widthMask_eq (w : CrcWidth) (v : Word) : v &&& widthMask w = (v.setWidth (widthBits w)).setWidth 32 :=
  BitVec.eq_of_getLsbD_eq fun i hi => by
    rw [BitVec.getLsbD_and, getLsbD_widthMask, BitVec.getLsbD_setWidth, BitVec.getLsbD_setWidth, decide_eq_true hi,
      Bool.true_and, Bool.and_comm]

theorem toNat_and_widthMask (w : CrcWidth) (v : Word) : (v &&& widthMask w).toNat = v.toNat % 2 ^ widthBits w := by
  rw [and_widthMask_eq, BitVec.toNat_setWidth_of_le (widthBits_le w), BitVec.toNat_setWidth]

theorem startValue_normal {s : State} (w : CrcWidth) (h : refin s.ctrl = false) :
    startValue w s = s.init &&& widthMask w := by simp [startValue, h]

theorem startValue_reflected {s : State} (w : CrcWidth) (h : refin s.ctrl = true) :
    startValue w s = reflect w (s.init &&& widthMask w) := by simp [startValue, h]

theorem exec_start_of_width {s : State} {w : CrcWidth} (hw : crcWidth s.ctrl = some w) :
    exec .start s = .next (startBody w s) := withWidth_some hw

/-- Settles O32: masking is a remainder, and reflecting takes bit `i` of the width to bit `W - 1 - i`. -/
theorem startLoadsTheInitialValue : Obligations.StartLoadsTheInitialValue := by
  refine ⟨fun s w hw => ⟨startValue w s, exec_start_of_width hw, fun hnormal => ?_, fun hreflected => ?_⟩,
    fun s hw => withWidth_none hw⟩
  · rw [startValue_normal w hnormal, toNat_and_widthMask]
  · refine ⟨startValue_lt w s, fun i hi => ?_⟩
    have hflip : widthBits w - 1 - (widthBits w - 1 - i) = i := by omega
    rw [startValue_reflected w hreflected, getLsbD_reflect, hflip, decide_eq_true (by omega), Bool.true_and,
      BitVec.getLsbD_and, getLsbD_widthMask, decide_eq_true hi, Bool.and_true]

end Sys2Proof.Machine
end

section
/-! SUPPORT. FOLD: one equation per variant, and its two corner cases, an 8-bit width and a table of zeros (R161, R162). -/

namespace Sys2Proof.Machine

theorem crcFold_normal (w : CrcWidth) (tbl : Vector Word 256) (acc : Word) (b : Byte) :
    crcFold w false tbl acc b = ((acc <<< 8) &&& widthMask w) ^^^
      tableAt tbl (((acc >>> (widthBits w - 8)) ^^^ b.setWidth 32).extractLsb' 0 8) := by
  rw [← BitVec.setWidth_eq_extractLsb' (by decide)]; rfl

theorem crcFold_reflected (w : CrcWidth) (tbl : Vector Word 256) (acc : Word) (b : Byte) :
    crcFold w true tbl acc b = (acc >>> 8) ^^^ tableAt tbl ((acc ^^^ b.setWidth 32).extractLsb' 0 8) := by
  rw [← BitVec.setWidth_eq_extractLsb' (by decide)]; rfl

/-- The low byte of a word XORed with a byte. -/
theorem extractLsb'_xor_byte (v : Word) (b : Byte) :
    (v ^^^ b.setWidth 32).extractLsb' 0 8 = v.extractLsb' 0 8 ^^^ b := by
  obtain ⟨hlow, -⟩ := byte_as_word_fields b
  rw [BitVec.extractLsb'_xor, hlow]

/-- At `W` = 8 the shift drops the whole accumulator, so the fold is the lookup alone, in both variants (R161). -/
theorem crcFold_w8 (ref : Bool) (tbl : Vector Word 256) {acc : Word} (b : Byte) (hacc : acc.toNat < 256) :
    crcFold .w8 ref tbl acc b = tableAt tbl (acc.extractLsb' 0 8 ^^^ b) := by
  cases ref with
  | false =>
    have hshift : (acc <<< 8) &&& widthMask .w8 = 0 := BitVec.eq_of_getLsbD_eq fun i _ => by
      simp only [BitVec.getLsbD_and, BitVec.getLsbD_shiftLeft, getLsbD_widthMask, widthBits_w8]
      by_cases hi : i < 8 <;> simp [hi]
    have hwhole : acc >>> (widthBits .w8 - 8) = acc := BitVec.ushiftRight_zero acc
    rw [crcFold_normal, hshift, hwhole, extractLsb'_xor_byte]
    exact BitVec.zero_xor
  | true =>
    have hshift : acc >>> 8 = 0 := BitVec.eq_of_toNat_eq (by
      rw [BitVec.toNat_ushiftRight]; exact Nat.shiftRight_eq_zero _ _ hacc)
    rw [crcFold_reflected, hshift, extractLsb'_xor_byte]
    exact BitVec.zero_xor

/-- Through a table of zeros the fold only shifts: the byte is dropped (R161). -/
theorem crcFold_of_zero_table (w : CrcWidth) (ref : Bool) {tbl : Vector Word 256} (hzero : ∀ i, tableAt tbl i = 0)
    (acc : Word) (b : Byte) :
    crcFold w ref tbl acc b = if ref then acc >>> 8 else (acc <<< 8) &&& widthMask w := by
  cases ref with
  | false => rw [crcFold_normal, hzero]; exact BitVec.xor_zero
  | true => rw [crcFold_reflected, hzero]; exact BitVec.xor_zero

/-- FOLD and FOLDRANGE need both validity bits (R224). -/
theorem not_ready_of_invalid {s : State} (h : flag .tableValid s = false ∨ flag .accValid s = false) :
    (flag .tableValid s && flag .accValid s) = false := by
  rcases h with h | h <;> simp [h]

/-- Settles O33: the body is one fold, its two equations are the two variants, and the checks come before it in their order. -/
theorem foldUpdatesTheAccumulator : Obligations.FoldUpdatesTheAccumulator := by
  refine fun s b => ⟨fun w hw htable hacc => ⟨crcFold w (refin s.ctrl) s.tbl s.acc b, ?_, fun hnormal => ?_,
    fun hreflected => ?_, ?_, fun hzero => crcFold_of_zero_table w _ hzero s.acc b⟩, fun hw => withWidth_none hw,
    fun hw hinvalid => ?_⟩
  · exact execFold_of_ready b hw (by rw [htable, hacc]; rfl)
  · rw [hnormal, crcFold_normal]
  · rw [hreflected, crcFold_reflected]
  · rintro rfl
    exact crcFold_w8 _ s.tbl b
  · obtain ⟨w, hw⟩ := Option.ne_none_iff_exists'.1 hw
    exact execFold_of_not_ready b hw (not_ready_of_invalid hinvalid)

end Sys2Proof.Machine
end

section
/-! SUPPORT. FOLDRANGE: the effective range (R164), what the command does to it (R163), and the FOLDs it stands for (R165). -/

namespace Sys2Proof.Machine

/-! The effective range -/

section
variable {s : State}

/-- An endpoint moved exactly when the effective one is not the requested one (R164). -/
theorem rangeClipped_iff : rangeClipped s = true ↔ effStart s ≠ requestedStart s ∨ effEnd s ≠ requestedEnd s := by
  simp [rangeClipped]

theorem effStart_of_whole_image (h : rangeEn s.ctrl = false) : effStart s = requestedStart s := by
  simp [effStart, requestedStart, h]

theorem effEnd_of_whole_image (h : rangeEn s.ctrl = false) : effEnd s = requestedEnd s := by
  simp [effEnd, requestedEnd, h]

/-- A requested range that begins above the image is empty, and its end is lowered to the image (R164). -/
theorem range_above_image (habove : s.imgHigh.toNat < requestedStart s) (hle : requestedStart s ≤ requestedEnd s) :
    rangeLength s = 0 ∧ rangeClipped s = true := by
  rw [rangeClipped_iff]
  unfold rangeLength effStart effEnd
  omega

/-- A requested range that ends below the image is empty, and its start is raised to the image (R164). -/
theorem range_below_image (hbelow : requestedEnd s < s.imgLow.toNat) (hle : requestedStart s ≤ requestedEnd s) :
    rangeLength s = 0 ∧ rangeClipped s = true := by
  rw [rangeClipped_iff]
  unfold rangeLength effStart effEnd
  omega

theorem requested_of_rangeEn (h : rangeEn s.ctrl = true) :
    requestedStart s = s.rstart.toNat ∧ requestedEnd s = s.rend.toNat := by
  simp [requestedStart, requestedEnd, h]

end

/-- Settles O37: the effective range is a maximum and a minimum, and each case compares the requested endpoints with them. -/
theorem effectiveRangeStaysInTheImage : Obligations.EffectiveRangeStaysInTheImage := by
  refine fun s => ⟨rfl, rfl, fun a hstart hend => ?_, fun hwhole => ?_, fun hen => ?_, fun hen => ?_, fun hen => ?_,
    rangeClipped_iff⟩
  · exact ⟨(le_max_right _ _).trans hstart, hend.trans (min_le_right _ _)⟩
  · rw [Bool.eq_false_iff, ne_eq, rangeClipped_iff]
    simp [effStart_of_whole_image hwhole, effEnd_of_whole_image hwhole]
  all_goals obtain ⟨hstart, hend⟩ := requested_of_rangeEn hen
  · rw [← hstart, ← hend]; exact range_above_image
  · rw [← hstart, ← hend]; exact range_below_image
  · rw [← hstart, ← hend]; exact rangeLength_of_inverted

/-! The command -/

section
variable {s : State} {w : CrcWidth}

/-- FOLDRANGE's checks pass with a usable width, table and accumulator valid, and an image (R163). -/
theorem firstError_foldRange_none (hw : crcWidth s.ctrl = some w) (htable : flag .tableValid s = true)
    (hacc : flag .accValid s = true) (himage : s.imgLow.toNat ≤ s.imgHigh.toNat) : firstError .foldRange s = none := by
  simp [firstError, hw, htable, hacc, Nat.not_lt.2 himage]

/-- FOLDRANGE with its checks passed folds the range's bytes and reports the clipping (R163, R226). -/
theorem exec_foldRange_of_bytes {bytes : List Byte} (hw : crcWidth s.ctrl = some w)
    (hpass : firstError .foldRange s = none) (hbytes : rangeBytes s bytes) :
    exec .foldRange s = .next { reportClip s with acc := bytes.foldl (crcFold w (refin s.ctrl) s.tbl) s.acc } := by
  obtain ⟨hlen, hread⟩ := hbytes
  exact (exec_of_firstError_none (c := .foldRange) hw hpass).trans (finish_next.2 (foldRangeBody_of_bytes hlen hread))

/-- Reporting the clipping touches STATUS alone. -/
theorem reportClip_eq (s : State) :
    reportClip s = { s with status := if rangeClipped s then s.status ||| 0x00000010 else s.status } := by
  unfold reportClip
  split <;> rfl

end

/-- Settles O35: with the checks passed the loop folds the range's bytes; otherwise the first failing check sets its bit. -/
theorem foldRangeFoldsTheRange : Obligations.FoldRangeFoldsTheRange := by
  refine fun s => ⟨fun w bytes hw htable hacc himage hbytes => ?_, fun hw => withWidth_none hw, fun hw hinvalid => ?_,
    fun hw htable hacc hbelow => ?_⟩
  · rw [exec_foldRange_of_bytes hw (firstError_foldRange_none hw htable hacc himage) hbytes, reportClip_eq]
  · have hfails : firstError .foldRange s = some .errSeq := by
      simp [firstError, hw, not_ready_of_invalid hinvalid]
    exact exec_of_firstError hfails
  · obtain ⟨w, hw⟩ := Option.ne_none_iff_exists'.1 hw
    exact exec_of_firstError (firstError_of_noImage hw hbelow (.inr (.inr ⟨rfl, htable, hacc⟩)))

/-- Settles O36: both sides fold the same bytes from the same accumulator, and FOLDRANGE touches STATUS besides. -/
theorem foldRangeEqualsItsFolds : Obligations.FoldRangeEqualsItsFolds := by
  intro s w bytes hw htable hacc himage hbytes
  have hready : (flag .tableValid s && flag .accValid s) = true := by rw [htable, hacc]; rfl
  refine ⟨_, _, exec_foldRange_of_bytes hw (firstError_foldRange_none hw htable hacc himage) hbytes,
    execAll_folds hw hready, rfl, ?_⟩
  rw [reportClip_eq]

end Sys2Proof.Machine
end

section
/-! SUPPORT. The bit-at-a-time reference, a byte at a time: its register is followed through zero bits, and a byte that enters it is
the byte XORed onto its top bits, then eight zero bits (R166). -/

namespace Sys2Proof.Machine

open Sys2Proof.Reference

/-! The bits that enter -/

/-- The first `n` bits of a register, from the top. -/
def topBits {W : Nat} (n : Nat) (v : BitVec W) : List Bool := (List.range n).map v.getMsbD

theorem topBits_succ {W : Nat} (n : Nat) (v : BitVec W) : topBits (n + 1) v = v.msb :: topBits n (v <<< 1) := by
  simp only [topBits, List.range_succ_eq_map, List.map_cons, List.map_map, BitVec.msb]
  congr 1
  exact List.map_congr_left fun i _ => by simp

/-- A byte enters the normal variant from its top bit down. -/
theorem bitsOf_false (b : Byte) : bitsOf false b = topBits 8 b := rfl

/-- A byte enters the reflected variant as its reverse enters the normal one. -/
theorem bitsOf_true (b : Byte) : bitsOf true b = topBits 8 b.reverse :=
  calc bitsOf true b = (List.range 8).map b.getLsbD := rfl
    _ = topBits 8 b.reverse := List.map_congr_left fun _ _ => BitVec.getMsbD_reverse.symm

section
variable {W : Nat}

/-- The top byte of a register. -/
def topByte (v : BitVec W) : Byte := v.extractLsb' (W - 8) 8

/-- A byte at the top of a register. -/
def atTop (W : Nat) (b : Byte) : BitVec W := b.setWidth W <<< (W - 8)

theorem getMsbD_topByte (hW : 8 ≤ W) (v : BitVec W) {i : Nat} (hi : i < 8) : (topByte v).getMsbD i = v.getMsbD i := by
  have hplace : W - 8 + (8 - 1 - i) = W - 1 - i := by omega
  simp only [topByte, BitVec.getMsbD_eq_getLsbD, BitVec.getLsbD_extractLsb', hplace, hi, show i < W by omega,
    show 8 - 1 - i < 8 by omega, decide_true, Bool.true_and]

theorem getLsbD_atTop (b : Byte) (i : Nat) :
    (atTop W b).getLsbD i = (decide (i < W) && !decide (i < W - 8) && b.getLsbD (i - (W - 8))) := by
  simp only [atTop, BitVec.getLsbD_shiftLeft, BitVec.getLsbD_setWidth]
  by_cases hi : i < W
  · simp [show i - (W - 8) < W by omega]
  · simp [hi]

theorem getMsbD_atTop (hW : 8 ≤ W) (b : Byte) (i : Nat) : (atTop W b).getMsbD i = b.getMsbD i := by
  simp only [BitVec.getMsbD_eq_getLsbD, getLsbD_atTop]
  by_cases hi : i < 8
  · have hplace : W - 1 - i - (W - 8) = 8 - 1 - i := by omega
    simp [hi, hplace, show i < W by omega, show W - 1 - i < W by omega, show ¬ W - 1 - i < W - 8 by omega]
  · have hbelow : i < W → W - 1 - i < W - 8 := by omega
    by_cases hiW : i < W <;> simp [hi, hiW, hbelow]

theorem topBits_atTop (hW : 8 ≤ W) (b : Byte) : topBits 8 (atTop W b) = topBits 8 b :=
  List.map_congr_left fun i _ => getMsbD_atTop hW b i

theorem topBits_xor_atTop (hW : 8 ≤ W) (v : BitVec W) (b : Byte) :
    topBits 8 (v ^^^ atTop W b) = topBits 8 (topByte v ^^^ b) :=
  List.map_congr_left fun i hi => by
    rw [BitVec.getMsbD_xor, BitVec.getMsbD_xor, getMsbD_atTop hW, getMsbD_topByte hW v (List.mem_range.1 hi)]

theorem atTop_shiftLeft (hW : 8 ≤ W) (b : Byte) : atTop W b <<< 8 = 0 := by
  rw [atTop, ← BitVec.shiftLeft_add]
  exact BitVec.shiftLeft_eq_zero (by omega)

/-! The register -/

/-- Zero bits through a register with `v` XORed onto it feed in the top bits of `v` and shift the rest of `v` up. -/
theorem iterate_bit_xor (p : BitVec W) : ∀ (n : Nat) (r v : BitVec W),
    (fun c => bit p c false)^[n] (r ^^^ v) = (topBits n v).foldl (bit p) r ^^^ v <<< n
  | 0, r, v => by simp [topBits]
  | n + 1, r, v => by
    have hstep : bit p (r ^^^ v) false = bit p r v.msb ^^^ v <<< 1 := by
      unfold bit
      rw [BitVec.msb_xor, Bool.xor_false, BitVec.shiftLeft_xor_distrib]
      split
      · ac_rfl
      · rfl
    rw [Function.iterate_succ_apply, hstep, iterate_bit_xor p n, ← BitVec.shiftLeft_add, Nat.add_comm 1, topBits_succ]
    rfl

/-- A byte that enters a register is the byte XORed onto its top, then eight zero bits. -/
theorem foldl_bit_eq_iterate (hW : 8 ≤ W) (p r : BitVec W) (b : Byte) :
    (topBits 8 b).foldl (bit p) r = (fun c => bit p c false)^[8] (r ^^^ atTop W b) := by
  rw [iterate_bit_xor, atTop_shiftLeft hW, topBits_atTop hW]
  exact BitVec.xor_zero.symm

/-- The law of the table-driven form: a byte that enters a register shifts it up by a byte and adds what the byte XORed with the
register's top byte makes of 0. -/
theorem foldl_bit_byte (hW : 8 ≤ W) (p r : BitVec W) (b : Byte) :
    (topBits 8 b).foldl (bit p) r = r <<< 8 ^^^ (topBits 8 (topByte r ^^^ b)).foldl (bit p) 0 := by
  have hshift : (r ^^^ atTop W b) <<< 8 = r <<< 8 := by
    rw [BitVec.shiftLeft_xor_distrib, atTop_shiftLeft hW]
    exact BitVec.xor_zero
  calc (topBits 8 b).foldl (bit p) r
      = (fun c => bit p c false)^[8] (r ^^^ atTop W b) := foldl_bit_eq_iterate hW p r b
    _ = (fun c => bit p c false)^[8] (0 ^^^ (r ^^^ atTop W b)) := congrArg _ BitVec.zero_xor.symm
    _ = (topBits 8 (topByte r ^^^ b)).foldl (bit p) 0 ^^^ r <<< 8 := by
      rw [iterate_bit_xor, topBits_xor_atTop hW, hshift]
    _ = _ := BitVec.xor_comm ..

end

end Sys2Proof.Machine
end

section
/-! SUPPORT. The engine against the reference (R166): the accumulator is the reference's register, as it stands in the normal
variant and bit-reversed in the reflected one, and a table entry is the register after the entry's byte, from 0. -/

namespace Sys2Proof.Machine

open Sys2Proof.Reference

/-! The register as the engine holds it -/

/-- The 32-bit word that stands for a register of `W` bits: its bits are in reverse order in the reflected variant. -/
def held {W : Nat} (ref : Bool) (r : BitVec W) : Word := (if ref then r.reverse else r).setWidth 32

theorem reverse_xor {W : Nat} (u v : BitVec W) : (u ^^^ v).reverse = u.reverse ^^^ v.reverse :=
  BitVec.eq_of_getLsbD_eq fun _ _ => by simp only [BitVec.getLsbD_reverse, BitVec.getMsbD_xor, BitVec.getLsbD_xor]

theorem held_xor {W : Nat} (ref : Bool) (u v : BitVec W) : held ref (u ^^^ v) = held ref u ^^^ held ref v := by
  cases ref with
  | false => exact BitVec.setWidth_xor
  | true => exact (congrArg (BitVec.setWidth 32) (reverse_xor u v)).trans BitVec.setWidth_xor

theorem eight_le_widthBits (w : CrcWidth) : 8 ≤ widthBits w := by cases w <;> decide

theorem held_setWidth_normal (w : CrcWidth) (v : Word) : held false (v.setWidth (widthBits w)) = v &&& widthMask w :=
  (and_widthMask_eq w v).symm

theorem held_setWidth_reflected (w : CrcWidth) (v : Word) :
    held true (v.setWidth (widthBits w)) = reflect w (v &&& widthMask w) := by
  rw [and_widthMask_eq, reflect, BitVec.setWidth_setWidth_of_le _ (widthBits_le w), BitVec.setWidth_eq]
  rfl

section
variable {w : CrcWidth} (r : BitVec (widthBits w))

theorem getLsbD_held_normal (i : Nat) : (held false r).getLsbD i = r.getLsbD i := by
  have hw := widthBits_le w
  simp only [held, Bool.false_eq_true, if_false, BitVec.getLsbD_setWidth]
  by_cases hi : i < 32
  · simp [hi]
  · simp [BitVec.getLsbD_of_ge r i (by omega)]

theorem getLsbD_held_reflected (i : Nat) : (held true r).getLsbD i = r.getMsbD i := by
  have hw := widthBits_le w
  simp only [held, if_true, BitVec.getLsbD_setWidth, BitVec.getLsbD_reverse]
  by_cases hi : i < 32
  · simp [hi]
  · simp [BitVec.getMsbD_of_ge r i (by omega)]

/-- Shifting the register up is a masked shift up of the word in the normal variant. -/
theorem held_shiftLeft_normal (n : Nat) : held false (r <<< n) = (held false r <<< n) &&& widthMask w :=
  BitVec.eq_of_getLsbD_eq fun i hi => by
    simp only [BitVec.getLsbD_and, BitVec.getLsbD_shiftLeft, getLsbD_widthMask, getLsbD_held_normal, hi, decide_true,
      Bool.true_and]
    ac_rfl

/-- Shifting the register up is a shift down of the word in the reflected variant. -/
theorem held_shiftLeft_reflected (n : Nat) : held true (r <<< n) = held true r >>> n :=
  BitVec.eq_of_getLsbD_eq fun i _ => by
    simp [getLsbD_held_reflected, Nat.add_comm n]

/-- In the normal variant the register's top byte is the top byte of the word's low `W` bits. -/
theorem topByte_normal : (held false r >>> (widthBits w - 8)).extractLsb' 0 8 = topByte r :=
  BitVec.eq_of_getLsbD_eq fun i hi => by
    simp [topByte, getLsbD_held_normal, hi]

/-- In the reflected variant the register's top byte is the word's low byte, reversed. -/
theorem topByte_reflected : (held true r).extractLsb' 0 8 = (topByte r).reverse :=
  BitVec.eq_of_getLsbD_eq fun i hi => by
    rw [BitVec.getLsbD_reverse, getMsbD_topByte (eight_le_widthBits w) r hi, BitVec.getLsbD_extractLsb', decide_eq_true hi,
      Bool.true_and, Nat.zero_add, getLsbD_held_reflected]

/-! The table -/

/-- One step of the normal construction is one zero bit through the register (R141). -/
theorem normalStep_held (p : BitVec (widthBits w)) :
    normalStep w (held false p) (held false r) = held false (bit p r false) := by
  unfold normalStep bit
  rw [getLsbD_held_normal, ← held_shiftLeft_normal, ← held_xor, Bool.xor_false, BitVec.msb_eq_getLsbD_last]
  exact (apply_ite ..).symm

/-- One step of the reflected construction is one zero bit through the register (R141). -/
theorem reflectedStep_held (p : BitVec (widthBits w)) :
    reflectedStep (held true p) (held true r) = held true (bit p r false) := by
  unfold reflectedStep bit
  rw [getLsbD_held_reflected, ← held_shiftLeft_reflected, ← held_xor, Bool.xor_false]
  exact (apply_ite ..).symm

end

theorem times_eq_iterate (f : Word → Word) : ∀ (n : Nat) (c : Word), times n f c = f^[n] c
  | 0, _ => rfl
  | n + 1, c => times_eq_iterate f n (f c)

/-- Eight steps that are zero bits through the register, from a byte at its top, are that byte's bits from 0. -/
theorem times_held {W : Nat} (hW : 8 ≤ W) {ref : Bool} {f : Word → Word} {p : BitVec W}
    (hf : ∀ r, f (held ref r) = held ref (bit p r false)) (b : Byte) :
    times 8 f (held ref (atTop W b)) = held ref ((topBits 8 b).foldl (bit p) 0) := by
  have hzero : (0 : BitVec W) ^^^ atTop W b = atTop W b := BitVec.zero_xor
  have hsteps := Function.Semiconj.iterate_right (fun r => (hf r).symm) 8 (atTop W b)
  rw [times_eq_iterate, foldl_bit_eq_iterate hW, hzero, hsteps]

/-- The normal construction starts from the byte at the top of the register (R141). -/
theorem held_atTop_normal (w : CrcWidth) (b : Byte) :
    held false (atTop (widthBits w) b) = b.setWidth 32 <<< (widthBits w - 8) :=
  BitVec.eq_of_getLsbD_eq fun i hi => by
    rw [getLsbD_held_normal, getLsbD_atTop, BitVec.getLsbD_shiftLeft, BitVec.getLsbD_setWidth]
    by_cases hiW : i < widthBits w
    · simp [hi, hiW, show i - (widthBits w - 8) < 32 by omega]
    · have := eight_le_widthBits w
      simp [hiW, BitVec.getLsbD_of_ge b (i - (widthBits w - 8)) (by omega)]

/-- The reflected construction starts from the reversed byte at the top of the register (R141). -/
theorem held_atTop_reflected (w : CrcWidth) (b : Byte) : held true (atTop (widthBits w) b.reverse) = b.setWidth 32 :=
  BitVec.eq_of_getLsbD_eq fun i hi => by
    rw [getLsbD_held_reflected, getMsbD_atTop (eight_le_widthBits w), BitVec.getMsbD_reverse, BitVec.getLsbD_setWidth,
      decide_eq_true hi, Bool.true_and]

/-- A table entry is the reference's register after the entry's byte, from 0. -/
theorem tblEntry_eq_reference (w : CrcWidth) (ref : Bool) (poly : Word) (b : Byte) :
    tblEntry w ref poly b = held ref ((bitsOf ref b).foldl (bit (poly.setWidth (widthBits w))) 0) := by
  have hW := eight_le_widthBits w
  cases ref with
  | false =>
    rw [tblEntry_normal, ← held_setWidth_normal, ← held_atTop_normal, bitsOf_false]
    exact times_held hW (fun r => normalStep_held r _) b
  | true =>
    rw [tblEntry_reflected, ← held_setWidth_reflected, ← held_atTop_reflected w, bitsOf_true]
    exact times_held hW (fun r => reflectedStep_held r _) b.reverse

/-! The fold -/

/-- One fold through the built table is the byte's bits through the reference's register (R161). -/
theorem crcFold_held (w : CrcWidth) (ref : Bool) (poly : Word) (r : BitVec (widthBits w)) (b : Byte) :
    crcFold w ref (tableOf (tblEntry w ref poly)) (held ref r) b =
      held ref ((bitsOf ref b).foldl (bit (poly.setWidth (widthBits w))) r) := by
  have hW := eight_le_widthBits w
  cases ref with
  | false =>
    rw [crcFold_normal, tableAt_tableOf, extractLsb'_xor_byte, topByte_normal, tblEntry_eq_reference,
      ← held_shiftLeft_normal, ← held_xor, bitsOf_false, bitsOf_false, ← foldl_bit_byte hW]
  | true =>
    rw [crcFold_reflected, tableAt_tableOf, extractLsb'_xor_byte, topByte_reflected, tblEntry_eq_reference,
      ← held_shiftLeft_reflected, ← held_xor, bitsOf_true, bitsOf_true, reverse_xor, BitVec.reverse_reverse_eq,
      ← foldl_bit_byte hW]

/-- The folds of a message are its bits through the reference's register. -/
theorem foldl_crcFold_held (w : CrcWidth) (ref : Bool) (poly : Word) (r : BitVec (widthBits w)) (msg : List Byte) :
    msg.foldl (crcFold w ref (tableOf (tblEntry w ref poly))) (held ref r) =
      held ref ((msg.flatMap (bitsOf ref)).foldl (bit (poly.setWidth (widthBits w))) r) := by
  rw [List.foldl_flatMap]
  exact List.foldl_hom (held ref) fun r b => crcFold_held w ref poly r b

/-! START and FINAL -/

/-- START loads INIT, cut to the width, into the register (R160). -/
theorem startValue_eq_held (w : CrcWidth) (s : State) :
    startValue w s = held (refin s.ctrl) (s.init.setWidth (widthBits w)) := by
  cases h : refin s.ctrl with
  | false => rw [startValue_normal w h, held_setWidth_normal]
  | true => rw [startValue_reflected w h, held_setWidth_reflected]

/-- FINAL's mask leaves the register, reflected back as its variant has it, XORed with XOROUT cut to the width (R180). -/
theorem held_xor_and_widthMask (w : CrcWidth) (ref : Bool) (r : BitVec (widthBits w)) (x : Word) :
    (held ref r ^^^ x) &&& widthMask w = ((if ref then r.reverse else r) ^^^ x.setWidth (widthBits w)).setWidth 32 := by
  rw [and_widthMask_eq, BitVec.setWidth_xor, held, BitVec.setWidth_setWidth_of_le _ (widthBits_le w), BitVec.setWidth_eq]

/-- The engine's value of a message, from START through the folds to FINAL, is the reference's CRC of it. -/
theorem engine_eq_reference (w : CrcWidth) (s : State) (msg : List Byte) :
    (msg.foldl (crcFold w (refin s.ctrl) (tableOf (tblEntry w (refin s.ctrl) s.poly))) (startValue w s) ^^^ s.xorout) &&&
        widthMask w =
      (Reference.crc (s.poly.setWidth (widthBits w)) (s.init.setWidth (widthBits w)) (s.xorout.setWidth (widthBits w))
        (refin s.ctrl) (refin s.ctrl) msg).setWidth 32 := by
  rw [startValue_eq_held, foldl_crcFold_held, held_xor_and_widthMask]
  rfl

/-! The commands in turn -/

theorem execAll_append_next {is js : List Instr} {s t : State} (h : execAll is s = .next t) :
    execAll (is ++ js) s = execAll js t := by
  induction is generalizing s with
  | nil => cases h; rfl
  | cons i is ih =>
    obtain ⟨u, hi, his⟩ := execAll_cons_cases h
    exact (execAll_cons_next hi).trans (ih his)

theorem exec_final_of_valid {s : State} {w : CrcWidth} (hw : crcWidth s.ctrl = some w) (hacc : flag .accValid s = true) :
    exec .final s = .next (finalBody w s) :=
  (withWidth_some hw).trans (if_pos hacc)

theorem execAll_build_start {s : State} {w : CrcWidth} (hw : crcWidth s.ctrl = some w) :
    execAll [.build, .start] s = .next (startBody w (buildBody w s)) :=
  (execAll_cons_next (exec_build_of_width hw)).trans (execAll_cons_next (exec_start_of_width hw))

theorem execAll_folds_final {s : State} {w : CrcWidth} (hw : crcWidth s.ctrl = some w)
    (hready : (flag .tableValid s && flag .accValid s) = true) (msg : List Byte) :
    execAll (msg.map .fold ++ [.final]) s =
      .next (finalBody w { s with acc := msg.foldl (crcFold w (refin s.ctrl) s.tbl) s.acc }) := by
  obtain ⟨-, hacc⟩ := Bool.and_eq_true_iff.1 hready
  rw [execAll_append_next (execAll_folds hw hready)]
  exact execAll_cons_next (exec_final_of_valid hw hacc)

/-- Settles O57: BUILD and START make the table and the accumulator valid, so the FOLDs and FINAL run, and what they leave in
RESULT is the engine's value of the message. -/
theorem engineComputesTheReferenceCrc : Obligations.EngineComputesTheReferenceCrc := by
  intro s w msg hw
  have hready : (flag .tableValid (startBody w (buildBody w s)) && flag .accValid (startBody w (buildBody w s))) = true := by
    simp
  rw [List.append_assoc, execAll_append_next (execAll_build_start hw)]
  exact ⟨_, execAll_folds_final (s := startBody w (buildBody w s)) hw hready msg, engine_eq_reference w s msg⟩

end Sys2Proof.Machine
end

section
/-! SUPPORT. FINAL and STORE: their checks (R224, R225), and the result field that STORE leaves as it is when it runs again (R181,
R182). -/

namespace Sys2Proof.Machine

/-- Settles O34: with its checks passed FINAL is its body, and its mask is a remainder. -/
theorem finalMasksTheXoredAccumulator : Obligations.FinalMasksTheXoredAccumulator := by
  refine fun s => ⟨fun w hw hacc => ⟨_, exec_final_of_valid hw hacc, toNat_and_widthMask w _⟩, fun hw => withWidth_none hw,
    fun hw hinvalid => ?_⟩
  have hfails : firstError .final s = some .errSeq := by simp [firstError, hw, hinvalid]
  exact exec_of_firstError hfails

section
variable {w : CrcWidth} {s t : State}

/-- STORE's bounds fail when one of its three comparisons does (R182). -/
theorem storeOk_eq_false (h : s.imgHigh.toNat < s.imgLow.toNat ∨ s.target.toNat < s.imgLow.toNat ∨
    s.imgHigh.toNat < s.target.toNat + widthBytes w - 1) : storeOk w s = false :=
  decide_eq_false fun ⟨himage, hlow, hhigh⟩ => by omega

/-- STORE with its checks passed and its field in the buffer runs its body to the end (R181). -/
theorem exec_store_of_owned (hw : crcWidth s.ctrl = some w) (hresult : flag .resultValid s = true)
    (hok : storeOk w s = true) (howned : ∀ k < widthBytes w, (s.image.read (s.target.toNat + k)).isSome = true) :
    ∃ t, exec .store s = .next t ∧ storeBody w s = .ok t := by
  have hpass : firstError .store s = none := by simp [firstError, hw, hresult, hok]
  obtain ⟨t, ht⟩ : ∃ t, storeBody w s = .ok t := storeFrom_of_owned howned
  exact ⟨t, (exec_of_firstError_none (c := .store) hw hpass).trans (finish_next.2 ht), ht⟩

/-- STORE's loop over bytes that the image already holds changes nothing. -/
theorem storeFrom_of_stored (hwf : s.image.wf) : ∀ {n k : Nat},
    (∀ j < n, s.image.read (s.target.toNat + k + j) = some (storeByte s.result (widthBytes w) (endianBig s.ctrl) (k + j))) →
    storeFrom w n k s = .ok s
  | 0, _, _ => rfl
  | n + 1, k, h => by
    have hfirst : s.image.read (s.target.toNat + k) = some (storeByte s.result (widthBytes w) (endianBig s.ctrl) k) :=
      h 0 (by omega)
    have hwrite : memWrite (s.target.toNat + k) (storeByte s.result (widthBytes w) (endianBig s.ctrl) k) s = .ok s :=
      memWrite_ok.2 ⟨Option.isSome_of_eq_some hfirst, by rw [Memory.write_same hwf.1 hfirst]⟩
    simp only [storeFrom, hwrite]
    exact storeFrom_of_stored hwf fun j hj => by simpa [Nat.add_assoc, Nat.add_comm 1 j] using h (j + 1) (by omega)

/-- STORE's body, run again, writes the bytes that stand there. -/
theorem storeBody_again (hwf : s.image.wf) (h : storeBody w s = .ok t) : storeBody w t = .ok t := by
  obtain ⟨heq, hkeeps, -, hbytes, -⟩ := storeBody_ok h
  have htarget : t.target = s.target := by rw [heq]
  have hresult : t.result = s.result := by rw [heq]
  have hctrl : t.ctrl = s.ctrl := by rw [heq]
  refine storeFrom_of_stored (hkeeps hwf) fun j hj => ?_
  simpa [htarget, hresult, hctrl] using hbytes j hj

end

/-- Settles O38: with the checks passed the loop writes the field's bytes and no other; otherwise the first failing check sets
its bit. -/
theorem storeWritesTheResultField : Obligations.StoreWritesTheResultField := by
  refine fun s => ⟨fun w hw hresult himage hlow hhigh howned => ?_, fun hw => withWidth_none hw, fun hw hinvalid => ?_,
    fun w hw hresult hbounds => ?_⟩
  · have hok : storeOk w s = true := decide_eq_true ⟨himage, hlow, hhigh⟩
    obtain ⟨t, hexec, hbody⟩ := exec_store_of_owned hw hresult hok howned
    obtain ⟨heq, -, -, hbytes, -⟩ := storeBody_ok hbody
    refine ⟨t.image, hexec.trans (congrArg _ heq), hbytes, fun k hk => ?_, fun a hout => ?_⟩
    · exact window_of_inTargetField hok ⟨by omega, by omega⟩
    · exact not_not.1 fun hchanged => hout (inTargetField_of_storeBody hbody hchanged)
  · have hfails : firstError .store s = some .errSeq := by simp [firstError, hw, hinvalid]
    exact exec_of_firstError hfails
  · have hfails : firstError .store s = some .errAddr := by simp [firstError, hw, hresult, storeOk_eq_false hbounds]
    exact exec_of_firstError hfails

end Sys2Proof.Machine
end

section
/-! SUPPORT. COMPUTE: what it makes of the block before its result write, and why a second COMPUTE does the same (R183, R201). -/

namespace Sys2Proof.Machine

/-- The bits of STATUS that COMPUTE leaves 1: the three validity bits, and CLIPPED when an endpoint was clipped (R201, R226). -/
def computedBits (s : State) : Word := if rangeClipped s then 0x0000001E else 0x0000000E

/-- The value of ACC after BUILD, START and the folds of `bytes` (R201). -/
def computedAcc (w : CrcWidth) (bytes : List Byte) (s : State) : Word :=
  bytes.foldl (crcFold w (refin s.ctrl) (tableOf (tblEntry w (refin s.ctrl) s.poly))) (startValue w s)

/-- The state after BUILD, START, FOLDRANGE of a range that holds `bytes`, and FINAL; STORE is still to come (R201). -/
def computed (w : CrcWidth) (bytes : List Byte) (s : State) : State :=
  { s with
    tbl := tableOf (tblEntry w (refin s.ctrl) s.poly)
    acc := computedAcc w bytes s
    result := (computedAcc w bytes s ^^^ s.xorout) &&& widthMask w
    status := s.status ||| computedBits s }

section
variable {w : CrcWidth} {bytes : List Byte} {s t : State}

/-- Clearing bits before setting them makes no difference. -/
theorem and_not_or_self (v m : Word) : v &&& ~~~m ||| m = v ||| m := by
  refine BitVec.eq_of_getLsbD_eq fun i hi => ?_
  simp only [BitVec.getLsbD_or, BitVec.getLsbD_and, BitVec.getLsbD_not, decide_eq_true hi, Bool.true_and]
  cases v.getLsbD i <;> cases m.getLsbD i <;> rfl

/-- The four bodies before the result write leave these bits of STATUS: START clears RESULT_VALID and FINAL sets it again. -/
theorem finalBody_reportClip_startBody_buildBody_status (w : CrcWidth) (s : State) :
    (finalBody w (reportClip (startBody w (buildBody w s)))).status = s.status ||| computedBits s := by
  have hclip : rangeClipped (startBody w (buildBody w s)) = rangeClipped s := rfl
  rw [finalBody_status, reportClip_status, startBody_status, buildBody_status, hclip, computedBits]
  split
  · rw [BitVec.or_assoc, BitVec.or_comm (statusWord .clipped), ← BitVec.or_assoc, and_not_or_self]
    simp only [BitVec.or_assoc]
    rfl
  · rw [and_not_or_self]
    simp only [BitVec.or_assoc]
    rfl

/-- The four bodies before the result write, of which the third folds `bytes`, in one state. -/
theorem finalBody_fold_startBody_buildBody (w : CrcWidth) (bytes : List Byte) (s : State) :
    finalBody w { reportClip (startBody w (buildBody w s)) with acc := computedAcc w bytes s } = computed w bytes s := by
  rw [computed, ← finalBody_reportClip_startBody_buildBody_status w s, reportClip_eq]
  rfl

/-- COMPUTE's body is the result write from the state that the bytes of the range, as they stand, lead to (R201, R202). -/
theorem computeBody_ok_iff :
    computeBody w s = .ok t ↔ ∃ bytes, rangeBytes s bytes ∧ storeBody w (computed w bytes s) = .ok t := by
  constructor
  · intro h
    obtain ⟨u, hfold, hstore⟩ := computeBody_ok h
    obtain ⟨bytes, hlen, hread, rfl⟩ := foldRangeBody_ok hfold
    refine ⟨bytes, ⟨hlen, hread⟩, ?_⟩
    rw [← finalBody_fold_startBody_buildBody]
    exact hstore
  · rintro ⟨bytes, ⟨hlen, hread⟩, hstore⟩
    have hfold := foldRangeBody_of_bytes (w := w) (s := startBody w (buildBody w s)) hlen hread
    rw [← finalBody_fold_startBody_buildBody] at hstore
    unfold computeBody
    rw [hfold]
    exact hstore

/-- Computing the same bytes again, whatever the result write made of the image, changes nothing. -/
theorem computed_again (w : CrcWidth) (bytes : List Byte) (s : State) (m : Memory) :
    computed w bytes { computed w bytes s with image := m } = { computed w bytes s with image := m } := by
  have hstatus : s.status ||| computedBits s ||| computedBits s = s.status ||| computedBits s := by
    rw [BitVec.or_assoc, BitVec.or_self]
  exact congrArg (fun status => { computed w bytes s with image := m, status := status }) hstatus

/-- The bytes of the range are the same after a result write that spares them. -/
theorem rangeBytes_of_image_eq {m : Memory} (h : rangeBytes s bytes)
    (hsame : ∀ a, effStart s ≤ a → a ≤ effEnd s → m.read a = s.image.read a) :
    rangeBytes { computed w bytes s with image := m } bytes := by
  obtain ⟨hlen, hread⟩ := h
  refine ⟨hlen, fun k hk => ?_⟩
  rw [← hread k hk]
  refine hsame _ (Nat.le_add_right _ _) ?_
  rw [hlen, rangeLength] at hk
  change effStart s + k ≤ effEnd s
  omega

/-- COMPUTE's body, run again on what it left, leaves it so: it reads the same bytes and writes the same field (R183). -/
theorem computeBody_again (hwf : s.image.wf) (hoff : ∀ a, effStart s ≤ a → a ≤ effEnd s → ¬ inTargetField w s a)
    (h : computeBody w s = .ok t) : computeBody w t = .ok t := by
  have hsame : ∀ a, effStart s ≤ a → a ≤ effEnd s → t.image.read a = s.image.read a := fun a hstart hend =>
    not_not.1 fun hchanged => hoff a hstart hend (inTargetField_of_computeBody h hchanged)
  obtain ⟨bytes, hbytes, hstore⟩ := computeBody_ok_iff.1 h
  obtain ⟨heq, -⟩ := storeBody_ok hstore
  have hrange : rangeBytes t bytes := by
    rw [heq]
    exact rangeBytes_of_image_eq hbytes hsame
  have hcomputed : computed w bytes t = t := by
    rw [heq]
    exact computed_again w bytes s t.image
  refine computeBody_ok_iff.2 ⟨bytes, hrange, ?_⟩
  rw [hcomputed]
  exact storeBody_again (s := computed w bytes s) hwf hstore

/-- COMPUTE's body changes neither CTRL nor anything else that COMPUTE's checks read. -/
theorem checks_of_computeBody (h : computeBody w s = .ok t) :
    t.ctrl = s.ctrl ∧ firstError .compute t = firstError .compute s := by
  obtain ⟨bytes, -, hstore⟩ := computeBody_ok_iff.1 h
  obtain ⟨heq, -⟩ := storeBody_ok hstore
  rw [heq]
  exact ⟨rfl, rfl⟩

/-- A rejected COMPUTE, run again, fails the same check and sets a bit that is set. -/
theorem exec_compute_again_of_firstError {e : StatusBit} (h : firstError .compute s = some e) :
    exec .compute (setFlag e s) = .next (setFlag e s) := by
  have hagain : firstError .compute (setFlag e s) = some e := h
  have hset : setFlag e (setFlag e s) = setFlag e s := setFlag_of_flag (by simp)
  exact (exec_of_firstError (c := .compute) hagain).trans (congrArg _ hset)

end

/-- Settles O41: a rejected COMPUTE is rejected again; a completed one passes its checks again and its body changes nothing. -/
theorem computeIsIdempotentOffTheRange : Obligations.ComputeIsIdempotentOffTheRange := by
  intro s t w hwf hw h hoff
  rcases exec_command_cases (c := .compute) h with ⟨hnop, -⟩ | ⟨e, he, rfl⟩ | ⟨w', hw', hpass, hbody⟩
  · cases hnop
  · exact exec_compute_again_of_firstError he
  · cases hw.symm.trans hw'
    obtain ⟨hctrl, hchecks⟩ := checks_of_computeBody hbody
    have hwidth : crcWidth t.ctrl = some w := hctrl ▸ hw
    have hbodyAgain : computeBody w t = .ok t := computeBody_again hwf hoff hbody
    exact (exec_of_firstError_none (c := .compute) hwidth (hchecks.trans hpass)).trans (finish_next.2 hbodyAgain)

end Sys2Proof.Machine
end

section
/-! SUPPORT. NOP, and COMPUTE as a whole: the five commands it stands for, and what it leaves behind (R200 to R202). -/

namespace Sys2Proof.Machine

/-! NOP -/

/-- A valid command word whose OP is 0 has ARG 0 too, so it is the word 0 (R83, R84, R200). -/
theorem eq_zero_of_opField_zero {d : Word} (hvalid : commandWordValid d) (hop : opField d = 0) : d = 0 := by
  obtain ⟨hrsvd, -, harg⟩ := hvalid
  have harg : argField d = 0 := harg.resolve_left (by rw [hop]; decide)
  rw [← commandWord_fields hrsvd, hop, harg]
  rfl

/-- Settles O30: NOP checks nothing, and a word with OP 0 that decodes is the word 0. -/
theorem nopChangesNothing : Obligations.NopChangesNothing :=
  ⟨fun _ => rfl, fun _ hop hne => decodeCommand_error_iff.2 fun hvalid => hne (eq_zero_of_opField_zero hvalid hop)⟩

/-! COMPUTE's checks -/

section
variable {w : CrcWidth} {s t : State}

/-- COMPUTE's checks pass with a usable width and the target field in the image window (R201). -/
theorem firstError_compute_none (hw : crcWidth s.ctrl = some w) (hok : storeOk w s = true) :
    firstError .compute s = none := by
  obtain ⟨himage, -⟩ := of_decide_eq_true hok
  simp [firstError, hw, hok, Nat.not_lt.2 himage]

/-- Without an image, as with the target field outside the window, COMPUTE's first failing check is ERR_ADDR (R225). -/
theorem firstError_compute_of_not_storeOk (hw : crcWidth s.ctrl = some w) (hok : storeOk w s = false) :
    firstError .compute s = some .errAddr := by
  by_cases himage : s.imgHigh.toNat < s.imgLow.toNat <;> simp [firstError, hw, hok, himage]

/-- COMPUTE with its checks passed is its body (R201). -/
theorem exec_compute_of_storeOk (hw : crcWidth s.ctrl = some w) (hok : storeOk w s = true) :
    exec .compute s = finish (computeBody w s) :=
  exec_of_firstError_none (c := .compute) hw (firstError_compute_none hw hok)

/-! The five commands in turn -/

theorem execAll_singleton (i : Instr) (s : State) : execAll [i] s = exec i s := by
  unfold execAll
  cases exec i s <;> rfl

/-- FOLDRANGE's body leaves what the checks of FINAL and STORE read: CTRL, the validity bits and the store bounds. -/
theorem final_store_checks_of_foldRangeBody (h : foldRangeBody w s = .ok t) :
    t.ctrl = s.ctrl ∧ flag .accValid t = flag .accValid s ∧ storeOk w t = storeOk w s := by
  refine ⟨?_, by simp [flag_of_foldRangeBody h], ?_⟩ <;> obtain ⟨_, -, -, rfl⟩ := foldRangeBody_ok h
  · exact reportClip_ctrl s
  · simp [storeOk]

/-- FINAL makes the result valid, so with the store bounds met STORE after it runs its body, to its end or to its fault. -/
theorem execAll_final_store (hw : crcWidth s.ctrl = some w) (hacc : flag .accValid s = true) (hok : storeOk w s = true) :
    execAll [.final, .store] s = finish (storeBody w (finalBody w s)) := by
  have hok' : storeOk w (finalBody w s) = true := hok
  have hpass : firstError .store (finalBody w s) = none := by simp [firstError, hw, hok']
  rw [execAll_cons_next (exec_final_of_valid hw hacc), execAll_singleton]
  exact exec_of_firstError_none (c := .store) hw hpass

/-- With the store bounds met, BUILD and START make the checks of FOLDRANGE pass and the bodies run in turn: a fault of
FOLDRANGE's body stops the sequence as it stops COMPUTE's body (R201). -/
theorem execAll_five_commands (hw : crcWidth s.ctrl = some w) (hok : storeOk w s = true) :
    execAll [.build, .start, .foldRange, .final, .store] s = finish (computeBody w s) := by
  obtain ⟨himage, -⟩ := of_decide_eq_true hok
  have hfoldRange : exec .foldRange (startBody w (buildBody w s)) =
      finish (foldRangeBody w (startBody w (buildBody w s))) :=
    exec_of_firstError_none (c := .foldRange) hw (firstError_foldRange_none hw (by simp) (by simp) himage)
  have hturn : execAll [.build, .start, .foldRange, .final, .store] s =
      execAll [.foldRange, .final, .store] (startBody w (buildBody w s)) :=
    execAll_append_next (execAll_build_start hw)
  rw [hturn, computeBody]
  cases hfold : foldRangeBody w (startBody w (buildBody w s)) with
  | error f =>
    rw [hfold] at hfoldRange
    simp only [execAll, hfoldRange, finish]
  | ok u =>
    rw [hfold] at hfoldRange
    obtain ⟨hctrl, hacc, hbounds⟩ := final_store_checks_of_foldRangeBody hfold
    rw [execAll_cons_next hfoldRange]
    exact execAll_final_store (hctrl ▸ hw) (hacc.trans (by simp)) (hbounds.trans hok)

/-! What COMPUTE leaves -/

/-- COMPUTE's body sets the three validity bits, and CLIPPED when an endpoint was clipped, and touches no other bit of STATUS
(R201, R226). -/
theorem flag_of_computeBody (h : computeBody w s = .ok t) (g : StatusBit) :
    flag g t = (flag g s || decide (g ∈ [.tableValid, .accValid, .resultValid]) ||
      (rangeClipped s && decide (g = .clipped))) := by
  have hclip : rangeClipped (startBody w (buildBody w s)) = rangeClipped s := rfl
  obtain ⟨u, hfold, hstore⟩ := computeBody_ok h
  rw [flag_of_storeBody hstore, flag_finalBody, flag_of_foldRangeBody hfold, hclip]
  cases g <;> simp

/-- In an owned window the effective range has its bytes: every address of it lies in the window (R164, R255). -/
theorem exists_rangeBytes_of_windowOwned (howned : windowOwned s) : ∃ bytes, rangeBytes s bytes := by
  refine ⟨(List.range (rangeLength s)).map fun k => (s.image.read (effStart s + k)).getD 0, by simp, fun k hk => ?_⟩
  have hk : k < rangeLength s := by simpa using hk
  obtain ⟨-, -, hwindow, -⟩ := effectiveRangeStaysInTheImage s
  obtain ⟨hlow, hhigh⟩ := hwindow (effStart s + k) (Nat.le_add_right _ _) (by rw [rangeLength] at hk; omega)
  obtain ⟨v, hv⟩ := Option.isSome_iff_exists.1 (howned _ hlow hhigh)
  simp [hv]

/-- In an owned window COMPUTE completes with its checks passed: its result write finds every byte of the target field, and what
it writes is computed from the bytes of the range as they stand before the command (R201, R202). -/
theorem exec_compute_of_bytes {bytes : List Byte} (hw : crcWidth s.ctrl = some w) (hok : storeOk w s = true)
    (howned : windowOwned s) (hbytes : rangeBytes s bytes) :
    ∃ t, exec .compute s = .next t ∧ computeBody w s = .ok t ∧ storeBody w (computed w bytes s) = .ok t := by
  have hfield : ∀ k < widthBytes w, (s.image.read (s.target.toNat + 0 + k)).isSome = true := fun k hk => by
    obtain ⟨hlow, hhigh⟩ := window_of_inTargetField hok (a := s.target.toNat + k) ⟨by omega, by omega⟩
    exact howned _ hlow hhigh
  obtain ⟨t, hstore⟩ := storeFrom_of_owned (w := w) (s := computed w bytes s) hfield
  have hbody : computeBody w s = .ok t := computeBody_ok_iff.2 ⟨bytes, hbytes, hstore⟩
  exact ⟨t, (exec_compute_of_storeOk hw hok).trans (finish_next.2 hbody), hbody, hstore⟩

end

/-- Settles O39: with the checks passed both sides are COMPUTE's body, which completes in an owned window and sets the validity
bits; otherwise the first failing check sets its bit. -/
theorem computeIsItsFiveCommands : Obligations.ComputeIsItsFiveCommands := by
  refine fun s => ⟨fun w hw himage hlow hhigh => ?_, fun hw => withWidth_none hw, fun w hw hbounds =>
    exec_of_firstError (firstError_compute_of_not_storeOk hw (storeOk_eq_false hbounds))⟩
  have hok : storeOk w s = true := decide_eq_true ⟨himage, hlow, hhigh⟩
  refine ⟨(exec_compute_of_storeOk hw hok).trans (execAll_five_commands hw hok).symm, fun howned => ?_⟩
  obtain ⟨bytes, hbytes⟩ := exists_rangeBytes_of_windowOwned howned
  obtain ⟨t, hexec, hbody, -⟩ := exec_compute_of_bytes hw hok howned hbytes
  have hflag := flag_of_computeBody hbody
  exact ⟨t, hexec, by simp [hflag], by simp [hflag], by simp [hflag], fun hclipped => by simp [hflag, hclipped]⟩

/-- Settles O40: the range is folded before the result write, which leaves every byte outside the target field as it was. -/
theorem computeStoresTheCrcOfTheRangeAsIssued : Obligations.ComputeStoresTheCrcOfTheRangeAsIssued := by
  intro s w bytes hw himage hlow hhigh howned hbytes
  have hok : storeOk w s = true := decide_eq_true ⟨himage, hlow, hhigh⟩
  obtain ⟨t, hexec, hbody, hstore⟩ := exec_compute_of_bytes hw hok howned hbytes
  obtain ⟨heq, -, -, hfield, -⟩ := storeBody_ok hstore
  exact ⟨_, computedAcc w bytes s, t.image, hexec.trans (congrArg _ heq), tableAt_tableOf _, rfl, hfield, fun a hout =>
    not_not.1 fun hchanged => hout (inTargetField_of_computeBody hbody hchanged)⟩

end Sys2Proof.Machine
end

section
/-! SUPPORT. The error bits under the commands: when the width check and the validity checks fail (R223, R224), and that a command
which passes its checks touches no error bit (R221). -/

namespace Sys2Proof.Machine

/-! The checks that fail -/

/-- The reserved value of the WIDTH field is the one that selects no width (R11). -/
theorem crcWidth_eq_none_iff {c : Word} : crcWidth c = none ↔ widthField c = 3 := by
  unfold crcWidth
  generalize widthField c = v
  revert v
  decide

/-- What a command folds, finalizes or stores has to be valid: at a usable width ERR_SEQ is its first failing check (R224, R228). -/
theorem firstError_of_invalid {c : Command} {s : State} {w : CrcWidth} (hw : crcWidth s.ctrl = some w)
    (hc : ((∃ b, c = .fold b) ∨ c = .foldRange) ∧ (flag .tableValid s = false ∨ flag .accValid s = false) ∨
      c = .final ∧ flag .accValid s = false ∨ c = .store ∧ flag .resultValid s = false) :
    firstError c s = some .errSeq := by
  rcases hc with ⟨⟨b, rfl⟩ | rfl, hinvalid⟩ | ⟨rfl, hinvalid⟩ | ⟨rfl, hinvalid⟩
  · simp [firstError, hw, not_ready_of_invalid hinvalid]
  · simp [firstError, hw, not_ready_of_invalid hinvalid]
  · simp [firstError, hw, hinvalid]
  · simp [firstError, hw, hinvalid]

/-- COMPUTE makes the table, the accumulator and the result itself, so it never asks whether they are valid (R201, R224). -/
theorem firstError_compute_ne_errSeq (s : State) : firstError .compute s ≠ some .errSeq := by
  cases hw : crcWidth s.ctrl with
  | none => simp [firstError, hw]
  | some w =>
    cases hok : storeOk w s with
    | false => simp [firstError_compute_of_not_storeOk hw hok]
    | true => simp [firstError_compute_none hw hok]

/-! The checks that pass -/

/-- No command's body touches an error bit, bits 5 to 8 of STATUS: it moves only the validity bits and CLIPPED (R36, R221). -/
theorem flag_error_of_commandBody {c : Command} {w : CrcWidth} {s t : State} {f : StatusBit} (hf : 5 ≤ statusIndex f)
    (h : commandBody w s c = .ok t) : flag f t = flag f s := by
  have hother : f ≠ .tableValid ∧ f ≠ .accValid ∧ f ≠ .resultValid ∧ f ≠ .clipped := by revert hf; cases f <;> decide
  obtain ⟨htable, hacc, hresult, hclipped⟩ := hother
  cases c with
  | nop => cases h; rfl
  | build => cases h; simp [htable]
  | start => cases h; simp [hacc, hresult]
  | fold b => cases h; rfl
  | final => cases h; simp [hresult]
  | foldRange => simp [flag_of_foldRangeBody h, hclipped]
  | store => exact flag_of_storeBody h f
  | compute => simp [flag_of_computeBody h, htable, hacc, hresult, hclipped]

/-- An error bit that is not that of the first failing check is left as it was (R221). -/
theorem flag_error_of_command {c : Command} {s t : State} {f : StatusBit} (hf : 5 ≤ statusIndex f)
    (hpass : firstError c s ≠ some f) (h : exec c.toInstr s = .next t) : flag f t = flag f s := by
  rcases exec_command_cases h with ⟨-, rfl⟩ | ⟨e, he, rfl⟩ | ⟨w, -, -, hbody⟩
  · rfl
  · have hne : f ≠ e := by rintro rfl; exact hpass he
    simp [hne]
  · exact flag_error_of_commandBody hf hbody

/-- Settles O44: the first failing check decides, and with none failing no error bit moves. -/
theorem rejectedCommandSetsOnlyItsFirstError : Obligations.RejectedCommandSetsOnlyItsFirstError := by
  refine fun c s => ⟨fun e he => exec_of_firstError he, fun hpass t h => ?_⟩
  have hkept {f : StatusBit} (hf : 5 ≤ statusIndex f) : flag f t = flag f s :=
    flag_error_of_command hf (by simp [hpass]) h
  exact ⟨hkept (by decide), hkept (by decide), hkept (by decide), hkept (by decide)⟩

/-- Settles O42: WIDTH = 3 selects no width, and the width check is the first of every command but NOP. -/
theorem reservedWidthRejectsEveryCommandButNop : Obligations.ReservedWidthRejectsEveryCommandButNop :=
  fun _ hreserved => ⟨fun _ hc => exec_command_of_no_width (crcWidth_eq_none_iff.2 hreserved) hc, rfl⟩

/-- Settles O43: under a usable width the validity check is the first to fail; COMPUTE has none. -/
theorem invalidInputRaisesErrSeq : Obligations.InvalidInputRaisesErrSeq := by
  refine fun s => ⟨fun husable => ?_, fun t h => ?_⟩
  · obtain ⟨w, hw⟩ := Option.ne_none_iff_exists'.1 fun hnone => husable (crcWidth_eq_none_iff.1 hnone)
    exact ⟨fun b hinvalid =>
        ⟨exec_of_firstError (firstError_of_invalid hw (.inl ⟨.inl ⟨b, rfl⟩, hinvalid⟩)),
          exec_of_firstError (firstError_of_invalid hw (.inl ⟨.inr rfl, hinvalid⟩))⟩,
      fun hinvalid => exec_of_firstError (firstError_of_invalid hw (.inr (.inl ⟨rfl, hinvalid⟩))),
      fun hinvalid => exec_of_firstError (firstError_of_invalid hw (.inr (.inr ⟨rfl, hinvalid⟩)))⟩
  · exact flag_error_of_command (c := .compute) (by decide) (firstError_compute_ne_errSeq s) h

end Sys2Proof.Machine
end

section
/-! SUPPORT. After a change of configuration (R262): a validity bit that is 0 rises only through the command that makes it valid, or
through COMPUTE, and ERR_SEQ is the answer exactly while it is 0. -/

namespace Sys2Proof.Machine

/-! What makes a validity bit rise -/

/-- The command that sets a validity bit, besides COMPUTE, which sets all three (R38, R201). -/
def makerOf : StatusBit → Option Command
  | .tableValid => some .build
  | .accValid => some .start
  | .resultValid => some .final
  | _ => none

section
variable {f : StatusBit} {r c : Command} {w : CrcWidth} {i : Instr} {s t : State}

/-- Of the commands' bodies only COMPUTE's and that of its own maker set a validity bit (R38). -/
theorem maker_of_commandBody (hr : makerOf f = some r) (h : commandBody w s c = .ok t) (hoff : flag f s = false)
    (hon : flag f t = true) : c = r ∨ c = .compute := by
  cases c with
  | build =>
    cases h
    have hf : f = .tableValid := by simpa [hoff] using hon
    subst hf; cases hr
    exact .inl rfl
  | start =>
    cases h
    have hf : f = .accValid := by rw [flag_startBody, hoff] at hon; simp_all
    subst hf; cases hr
    exact .inl rfl
  | final =>
    cases h
    have hf : f = .resultValid := by simpa [hoff] using hon
    subst hf; cases hr
    exact .inl rfl
  | foldRange =>
    have hf : f = .clipped := by
      rw [flag_of_foldRangeBody h, hoff] at hon
      simp_all
    subst hf; cases hr
  | store => rw [flag_of_storeBody h, hoff] at hon; cases hon
  | compute => exact .inr rfl
  | _ => cases h; exact absurd hon (Bool.eq_false_iff.1 hoff)

/-- A rejection sets an error bit, so it makes nothing valid (R221). -/
theorem maker_of_command (hr : makerOf f = some r) (h : exec c.toInstr s = .next t) (hoff : flag f s = false)
    (hon : flag f t = true) : c = r ∨ c = .compute := by
  rcases exec_command_cases h with ⟨-, rfl⟩ | ⟨e, he, rfl⟩ | ⟨w, -, -, hbody⟩
  · exact absurd hon (Bool.eq_false_iff.1 hoff)
  · have hf : f = e := by simpa [hoff] using hon
    subst hf
    rcases firstError_mem he with rfl | rfl | rfl <;> cases hr
  · exact maker_of_commandBody hr hbody hoff hon

/-- An instruction that sets a validity bit redoes the command that the bit stands for (R262). -/
theorem redoes_of_rise (hr : makerOf f = some r) (h : exec i s = .next t) (hoff : flag f s = false)
    (hon : flag f t = true) : redoes r i := by
  have hnever : ¬ flag f s = true := Bool.eq_false_iff.1 hoff
  rcases exec_cases h with heq | ⟨c, hi, hc⟩ | rfl | ⟨d, -, ⟨-, -, rfl⟩ | ⟨-, rfl⟩⟩ | ⟨d, -, rfl⟩ | ⟨d, -, rfl⟩
  · rw [heq] at hon; exact absurd hon hnever
  · rcases maker_of_command hr hc hoff hon with rfl | rfl
    · exact .inl hi
    · exact .inr hi
  · have hf : f = .errCmd := by simpa [hoff] using hon
    subst hf; cases hr
  · exact absurd hon hnever
  · have hvalid : flag f (clearValid s) = true := hon
    simp [hoff] at hvalid
  · have hvalid : flag f (clearFlag .tableValid s) = true := hon
    simp [hoff] at hvalid
  · simp [hoff] at hon

/-- A validity bit that is 0 stays 0 through any instructions that do not redo its command (R262). -/
theorem execAll_keeps_invalid (hr : makerOf f = some r) : ∀ {is : List Instr} {s u : State}, execAll is s = .next u →
    flag f s = false → (∀ i ∈ is, ¬ redoes r i) → flag f u = false
  | [], _, _, h, hoff, _ => by cases h; exact hoff
  | i :: is, s, u, h, hoff, hnot => by
    obtain ⟨t, hi, his⟩ := execAll_cons_cases h
    have ht : flag f t = false :=
      Bool.eq_false_iff.2 fun hon => hnot i List.mem_cons_self (redoes_of_rise hr hi hoff hon)
    exact execAll_keeps_invalid hr his ht fun j hj => hnot j (List.mem_cons_of_mem i hj)

end

/-! What is rejected with ERR_SEQ, and what is not -/

section
variable {b : Byte} {j : Instr} {s t : State}

theorem exists_crcWidth_of_usable (h : s.ctrl.extractLsb' 0 2 ≠ 3) : ∃ w, crcWidth s.ctrl = some w :=
  Option.ne_none_iff_exists'.1 fun hnone => h (crcWidth_eq_none_iff.1 hnone)

/-- While the table or the accumulator is not valid both folding commands are rejected with ERR_SEQ (R224). -/
theorem exec_folds_of_invalid (hwidth : s.ctrl.extractLsb' 0 2 ≠ 3)
    (hinvalid : flag .tableValid s = false ∨ flag .accValid s = false) (hj : j ∈ [Instr.fold b, .foldRange]) :
    exec j s = .next { s with status := s.status ||| 0x00000080 } := by
  obtain ⟨hseq, -⟩ := invalidInputRaisesErrSeq s
  obtain ⟨hfolds, -, -⟩ := hseq hwidth
  obtain ⟨hfold, hfoldRange⟩ := hfolds b hinvalid
  simp only [List.mem_cons, List.not_mem_nil, or_false] at hj
  rcases hj with rfl | rfl
  · exact hfold
  · exact hfoldRange

/-- ERR_SEQ is the first failing check of a folding command only while the table or the accumulator is not valid. -/
theorem errSeq_of_folds (hready : (flag .tableValid s && flag .accValid s) = true) (hj : j ∈ [Instr.fold b, .foldRange])
    (h : exec j s = .next t) : flag .errSeq t = flag .errSeq s := by
  simp only [List.mem_cons, List.not_mem_nil, or_false] at hj
  rcases hj with rfl | rfl
  · have hpass : firstError (.fold b) s ≠ some .errSeq := by grind [firstError]
    exact flag_error_of_command (c := .fold b) (by decide) hpass h
  · have hpass : firstError .foldRange s ≠ some .errSeq := by grind [firstError]
    exact flag_error_of_command (c := .foldRange) (by decide) hpass h

/-- With the table, the accumulator and the result valid none of the four commands touches ERR_SEQ. -/
theorem errSeq_of_all_valid (hready : (flag .tableValid s && flag .accValid s) = true) (hresult : flag .resultValid s = true)
    (hj : j ∈ [Instr.fold b, .foldRange, .final, .store]) (h : exec j s = .next t) :
    flag .errSeq t = flag .errSeq s := by
  obtain ⟨-, hacc⟩ := Bool.and_eq_true_iff.1 hready
  have hsplit : j ∈ [Instr.fold b, .foldRange] ∨ j = .final ∨ j = .store := by
    simpa [or_assoc] using hj
  rcases hsplit with hfolds | rfl | rfl
  · exact errSeq_of_folds hready hfolds h
  · have hpass : firstError .final s ≠ some .errSeq := by grind [firstError]
    exact flag_error_of_command (c := .final) (by decide) hpass h
  · have hpass : firstError .store s ≠ some .errSeq := by grind [firstError]
    exact flag_error_of_command (c := .store) (by decide) hpass h

end

/-! The two writes -/

/-- Bits 0 to 2 of CTRL are WIDTH and REFIN (R25, R26). -/
theorem extractLsb'_three_congr {c d : Word} (hwidth : widthField c = widthField d) (hrefin : refin c = refin d) :
    c.extractLsb' 0 3 = d.extractLsb' 0 3 := by
  refine BitVec.eq_of_getLsbD_eq fun i hi => ?_
  simp only [BitVec.getLsbD_extractLsb', hi, decide_true, Bool.true_and, Nat.zero_add]
  by_cases hlow : i < 2
  · have hbit := congrArg (fun v => v.getLsbD i) hwidth
    simpa [widthField, hlow] using hbit
  · obtain rfl : i = 2 := by omega
    exact hrefin

/-- A write of CTRL that changes WIDTH or REFIN clears the three validity bits and nothing but CTRL beside them (R101). -/
theorem exec_wrCtrl_of_change {s t : State} {d : Word} (h : exec (.wrCtrl d) s = .next t)
    (hchange : t.ctrl.extractLsb' 0 3 ≠ s.ctrl.extractLsb' 0 3) : t = { clearValid s with ctrl := d &&& ctrlMask } := by
  change execWrCtrl d s = .next t at h
  rw [execWrCtrl_eq] at h
  split at h <;> cases h
  · rfl
  · rename_i hsame
    obtain ⟨hwidth, hrefin⟩ := not_or.1 hsame
    exact absurd (extractLsb'_three_congr (not_not.1 hwidth) (not_not.1 hrefin)) hchange

/-- BUILD, START and FINAL in turn make the table, the accumulator and the result valid (R262). -/
theorem execAll_build_start_final {s : State} {w : CrcWidth} (hw : crcWidth s.ctrl = some w) :
    execAll [.build, .start, .final] s = .next (finalBody w (startBody w (buildBody w s))) :=
  calc execAll [.build, .start, .final] s
      = execAll [.final] (startBody w (buildBody w s)) := execAll_append_next (execAll_build_start hw)
    _ = _ := (execAll_singleton _ _).trans (exec_final_of_valid hw (by simp))

/-- What R262 says after the validity bits fell: each of the four commands is rejected until what it needs is redone. -/
theorem rejected_until_redone {t u : State} {is : List Instr} (b : Byte) (htable : flag .tableValid t = false)
    (hacc : flag .accValid t = false) (hresult : flag .resultValid t = false) (h : execAll is t = .next u)
    (hwidth : u.ctrl.extractLsb' 0 2 ≠ 3) :
    ((∀ i ∈ is, ¬ redoes .build i) ∨ (∀ i ∈ is, ¬ redoes .start i) →
      ∀ j ∈ [Instr.fold b, .foldRange], exec j u = .next { u with status := u.status ||| 0x00000080 }) ∧
    ((∀ i ∈ is, ¬ redoes .start i) → exec .final u = .next { u with status := u.status ||| 0x00000080 }) ∧
    ((∀ i ∈ is, ¬ redoes .final i) → exec .store u = .next { u with status := u.status ||| 0x00000080 }) := by
  obtain ⟨hseq, -⟩ := invalidInputRaisesErrSeq u
  obtain ⟨-, hfinal, hstore⟩ := hseq hwidth
  refine ⟨fun hnot j hj => exec_folds_of_invalid hwidth ?_ hj, fun hnot => hfinal ?_, fun hnot => hstore ?_⟩
  · exact hnot.imp (execAll_keeps_invalid rfl h htable) (execAll_keeps_invalid rfl h hacc)
  · exact execAll_keeps_invalid rfl h hacc hnot
  · exact execAll_keeps_invalid rfl h hresult hnot

/-- Settles O52: the write clears the validity bits, they stay 0 until what they stand for is redone, and ERR_SEQ is the answer
exactly as long. -/
theorem configurationChangeInvalidates : Obligations.ConfigurationChangeInvalidates := by
  refine fun s t d b => ⟨fun h hchange => ?_, fun h => ?_⟩
  · have ht := exec_wrCtrl_of_change h hchange
    have hflag (f : StatusBit) : flag f t = flag f (clearValid s) := by rw [ht]; rfl
    have htable : flag .tableValid t = false := by simp [hflag]
    have hacc : flag .accValid t = false := by simp [hflag]
    have hresult : flag .resultValid t = false := by simp [hflag]
    refine ⟨htable, hacc, hresult, by rw [ht]; rfl, by rw [ht]; rfl, fun is u hu hwidth =>
      rejected_until_redone b htable hacc hresult hu hwidth, fun hwidth => ?_⟩
    obtain ⟨w, hw⟩ := exists_crcWidth_of_usable hwidth
    exact ⟨_, execAll_build_start_final hw, fun j hj x hx => errSeq_of_all_valid (by simp) (by simp) hj hx⟩
  · cases h
    have htable : flag .tableValid (clearFlag .tableValid { s with poly := d }) = false := by simp
    refine ⟨htable, rfl, rfl, fun is u hu hwidth hnot j hj =>
      exec_folds_of_invalid hwidth (.inl (execAll_keeps_invalid rfl hu htable hnot)) hj, fun hwidth hacc => ?_⟩
    have hacc' : flag .accValid (clearFlag .tableValid { s with poly := d }) = true := by
      rw [flag_clearFlag, Bool.and_eq_true]
      exact ⟨hacc, rfl⟩
    obtain ⟨w, hw⟩ := exists_crcWidth_of_usable hwidth
    exact ⟨_, exec_build_of_width hw, fun j hj x hx => errSeq_of_folds (by simp [hacc']) hj hx⟩

end Sys2Proof.Machine
end

section
/-! SUPPORT. Reset, BUSY, and completion: a command stops only where its loop over the image leaves the host's buffer (R250, R255,
R263, R264). -/

namespace Sys2Proof.Machine

/-! Where a command can stop -/

/-- The fault of R255: the access was at an address of the image window that is no byte of the host's buffer. -/
def stopsOutside (s : State) (f : Fault) : Prop :=
  f = .outsideBuffer ∧ ∃ a, s.imgLow.toNat ≤ a ∧ a ≤ s.imgHigh.toNat ∧ s.image.read a = none

section
variable {s : State} {w : CrcWidth} {f : Fault}

/-- FOLDRANGE's body reads only inside the effective range, which lies in the window (R164). -/
theorem stopsOutside_of_foldRangeBody (h : foldRangeBody w s = .error f) : stopsOutside s f := by
  obtain ⟨hf, k, hk, hnone⟩ := foldFrom_error h
  obtain ⟨-, -, hwindow, -⟩ := effectiveRangeStaysInTheImage s
  obtain ⟨hlow, hhigh⟩ := hwindow (effStart s + k) (Nat.le_add_right _ _) (by rw [rangeLength] at hk; omega)
  exact ⟨hf, _, hlow, hhigh, by simpa using hnone⟩

/-- STORE's body writes only the target field, which lies in the window once the store bounds are met (R182). -/
theorem stopsOutside_of_storeBody (hok : storeOk w s = true) (h : storeBody w s = .error f) : stopsOutside s f := by
  obtain ⟨hf, k, hk, hnone⟩ := storeFrom_error (k := 0) h
  obtain ⟨hlow, hhigh⟩ := window_of_inTargetField hok (a := s.target.toNat + k) ⟨by omega, by omega⟩
  exact ⟨hf, _, hlow, hhigh, by simpa using hnone⟩

/-- What stops COMPUTE's body stops its fold or its result write, and neither has changed the image or its window (R201). -/
theorem stopsOutside_of_computeBody (hok : storeOk w s = true) (h : computeBody w s = .error f) : stopsOutside s f := by
  rcases computeBody_error h with hfold | ⟨u, hfold, hstore⟩
  · have hstop := stopsOutside_of_foldRangeBody hfold
    simpa [stopsOutside] using hstop
  · obtain ⟨-, -, hbounds⟩ := final_store_checks_of_foldRangeBody hfold
    have hokFinal : storeOk w (finalBody w u) = true := hbounds.trans hok
    have hstop := stopsOutside_of_storeBody hokFinal hstore
    obtain ⟨_, -, -, rfl⟩ := foldRangeBody_ok hfold
    simpa [stopsOutside] using hstop

/-- A command's body, once its checks have passed, stops only outside the buffer. -/
theorem stopsOutside_of_commandBody {c : Command} (hw : crcWidth s.ctrl = some w) (hpass : firstError c s = none)
    (h : commandBody w s c = .error f) : stopsOutside s f := by
  cases c with
  | foldRange => exact stopsOutside_of_foldRangeBody h
  | store => exact stopsOutside_of_storeBody (storeOk_of_firstError hpass hw (.inl rfl)) h
  | compute => exact stopsOutside_of_computeBody (storeOk_of_firstError hpass hw (.inr rfl)) h
  | _ => cases h

end

/-- A command answers a next state, or stops outside the buffer. -/
theorem exec_command_next_or_stops (c : Command) (s : State) :
    (∃ t, exec c.toInstr s = .next t) ∨ ∃ f, exec c.toInstr s = .fault f ∧ stopsOutside s f := by
  cases he : firstError c s with
  | some e => exact .inl ⟨_, exec_of_firstError he⟩
  | none =>
    cases hw : crcWidth s.ctrl with
    | none =>
      by_cases hc : c = .nop
      · subst hc; exact .inl ⟨s, rfl⟩
      · exact .inl ⟨_, exec_command_of_no_width hw hc⟩
    | some w =>
      rw [exec_of_firstError_none hw he]
      cases hbody : commandBody w s c with
      | ok t => exact .inl ⟨t, rfl⟩
      | error f => exact .inr ⟨f, rfl, stopsOutside_of_commandBody hw he hbody⟩

/-- An instruction answers a next state, or runs a command that stops outside the buffer. -/
theorem exec_next_or_stops (i : Instr) (s : State) :
    (∃ t, exec i s = .next t) ∨ ∃ f, exec i s = .fault f ∧ stopsOutside s f := by
  cases i with
  | nop => exact exec_command_next_or_stops .nop s
  | build => exact exec_command_next_or_stops .build s
  | start => exact exec_command_next_or_stops .start s
  | fold b => exact exec_command_next_or_stops (.fold b) s
  | final => exact exec_command_next_or_stops .final s
  | foldRange => exact exec_command_next_or_stops .foldRange s
  | store => exact exec_command_next_or_stops .store s
  | compute => exact exec_command_next_or_stops .compute s
  | wrCmd d =>
    cases hd : decodeCommand d with
    | ok c => rw [exec_wrCmd_of_ok hd]; exact exec_command_next_or_stops c s
    | error e => exact .inl ⟨_, exec_wrCmd_of_error hd s⟩
  | wrCtrl d =>
    obtain ⟨t, ht, -⟩ := exec_wrCtrl_ctrl s d
    exact .inl ⟨t, ht⟩
  | _ => exact .inl ⟨_, rfl⟩

/-- Settles O49: an instruction stops only at an address of the window outside the buffer, and an owned window has none. -/
theorem everyInstructionCompletesInsideTheBuffer : Obligations.EveryInstructionCompletesInsideTheBuffer := by
  refine ⟨fun i s howned => ?_, fun i s => ?_⟩ <;> rcases exec_next_or_stops i s with hnext | ⟨f, hfault, rfl, hstop⟩
  · exact hnext
  · obtain ⟨a, hlow, hhigh, hnone⟩ := hstop
    have hsome := howned a hlow hhigh
    rw [hnone] at hsome; cases hsome
  · exact .inl hnext
  · exact .inr ⟨hfault, hstop⟩

/-! BUSY -/

/-- The access that BUSY allows decodes to the read of STATUS (R263). -/
theorem decode_of_isStatusRead {r : Request} (h : isStatusRead (.request r) = true) : decode r = .ok .rdStatus := by
  cases r with
  | cmd d => cases h
  | bus x =>
    obtain ⟨dir, offset, size, data⟩ := x
    obtain ⟨rfl, rfl, rfl⟩ := of_decide_eq_true h
    exact decodeBus_offset .read .status data

/-- Settles O14: BUSY forbids every request but the read of STATUS, and the invariant's BUSY reads 0. -/
theorem accessWhileBusyFaults : Obligations.AccessWhileBusyFaults := by
  refine ⟨fun s r rest hp hbusy hr => ?_, fun s h => ?_⟩
  · have hother : isStatusRead (.request r) = false := Bool.eq_false_iff.2 (mt decode_of_isStatusRead hr)
    have hbusy' : flag .busy { s with pending := rest } = true := hbusy
    have hforbidden : busyForbids (.request r) { s with pending := rest } = true := by
      simp [busyForbids, hbusy', hother]
    rw [step_of_pending hp, if_pos hforbidden]
  · obtain ⟨v, hread, hbit⟩ := busyReadsZero s h
    cases hread
    exact hbit

/-! Reset -/

/-- Settles O1: every register and every bit of STATUS is 0 in both states, and BUSY does not forbid the reset. -/
theorem resetZeroesEveryRegister : Obligations.ResetZeroesEveryRegister := by
  refine ⟨fun s t ht => ?_, fun s rest hp => ⟨_, step_of_allowed hp (by simp [busyForbids]), rfl, rfl⟩⟩
  have hfields : crcWidth 0 = some .w8 ∧ refin 0 = false ∧ endianBig 0 = false ∧ rangeEn 0 = false := by decide
  have hflags (u : State) (hu : u.status = 0) (f : StatusBit) : flag f u = false := by simp [flag, hu]
  obtain ⟨hwidth, hrefin, hendian, hrange⟩ := hfields
  rcases ht with rfl | rfl
  all_goals exact ⟨rfl, rfl, rfl, rfl, rfl, rfl, rfl, rfl, rfl, rfl, rfl, rfl, rfl, hwidth, hrefin, hendian, hrange,
    hflags _ rfl⟩

end Sys2Proof.Machine
end

section
/-! SUPPORT. The configuration registers and the host's side under the instructions: what a command, a Read or the write of STATUS
cannot reach (R101 to R112). -/

namespace Sys2Proof.Machine

/-- The configuration registers, the host's list, its image data and the count of draws, with all that the commands, the Reads and
the write of STATUS can reach at its reset value. -/
def configuration (s : State) : State :=
  { State.reset with
    ctrl := s.ctrl, poly := s.poly, init := s.init, xorout := s.xorout, rstart := s.rstart, rend := s.rend
    target := s.target, imgLow := s.imgLow, imgHigh := s.imgHigh, tblIdx := s.tblIdx
    pending := s.pending, draws := s.draws, imageData := s.imageData }

/-- Two states with one configuration agree in each of its fields. -/
theorem configuration_eq_iff {s t : State} : configuration t = configuration s ↔
    t.ctrl = s.ctrl ∧ t.poly = s.poly ∧ t.init = s.init ∧ t.xorout = s.xorout ∧ t.rstart = s.rstart ∧ t.rend = s.rend ∧
      t.target = s.target ∧ t.imgLow = s.imgLow ∧ t.imgHigh = s.imgHigh ∧ t.tblIdx = s.tblIdx ∧
      t.pending = s.pending ∧ t.draws = s.draws ∧ t.imageData = s.imageData := by
  simp only [configuration, State.mk.injEq, true_and]
  tauto

/-! The commands -/

section
variable {w : CrcWidth} {s t : State}

theorem configuration_of_foldRangeBody (h : foldRangeBody w s = .ok t) : configuration t = configuration s := by
  obtain ⟨_, -, -, rfl⟩ := foldRangeBody_ok h
  rw [reportClip_eq]; rfl

theorem configuration_of_storeBody (h : storeBody w s = .ok t) : configuration t = configuration s := by
  obtain ⟨heq, -⟩ := storeBody_ok h
  rw [heq]; rfl

theorem configuration_of_computeBody (h : computeBody w s = .ok t) : configuration t = configuration s := by
  obtain ⟨u, hfold, hstore⟩ := computeBody_ok h
  calc configuration t = configuration (finalBody w u) := configuration_of_storeBody hstore
    _ = configuration u := rfl
    _ = configuration (startBody w (buildBody w s)) := configuration_of_foldRangeBody hfold
    _ = configuration s := rfl

theorem configuration_of_commandBody {c : Command} (h : commandBody w s c = .ok t) : configuration t = configuration s := by
  cases c with
  | foldRange => exact configuration_of_foldRangeBody h
  | store => exact configuration_of_storeBody h
  | compute => exact configuration_of_computeBody h
  | _ => cases h; rfl

/-- No command touches the configuration, whether it runs or is rejected. -/
theorem configuration_of_command {c : Command} (h : exec c.toInstr s = .next t) : configuration t = configuration s := by
  rcases exec_command_cases h with ⟨-, rfl⟩ | ⟨e, -, rfl⟩ | ⟨w, -, -, hbody⟩
  · rfl
  · rfl
  · exact configuration_of_commandBody hbody

end

/-! The instructions -/

section
variable {i : Instr} {s t : State}

/-- An instruction that is the write of no configuration register leaves the configuration as it was. -/
theorem configuration_of_exec_or_write (h : exec i s = .next t) :
    configuration t = configuration s ∨ ∃ d, i = .wrCtrl d ∨ i = .wrPoly d ∨ i = .wrInit d ∨ i = .wrXorout d ∨ i = .wrRstart d ∨
      i = .wrRend d ∨ i = .wrTarget d ∨ i = .wrImgLow d ∨ i = .wrImgHigh d ∨ i = .wrTblIdx d := by
  cases i with
  | nop => exact .inl (configuration_of_command (c := .nop) h)
  | build => exact .inl (configuration_of_command (c := .build) h)
  | start => exact .inl (configuration_of_command (c := .start) h)
  | fold b => exact .inl (configuration_of_command (c := .fold b) h)
  | final => exact .inl (configuration_of_command (c := .final) h)
  | foldRange => exact .inl (configuration_of_command (c := .foldRange) h)
  | store => exact .inl (configuration_of_command (c := .store) h)
  | compute => exact .inl (configuration_of_command (c := .compute) h)
  | wrCmd d =>
    refine .inl ?_
    cases hd : decodeCommand d with
    | ok c => rw [exec_wrCmd_of_ok hd] at h; exact configuration_of_command h
    | error e => rw [exec_wrCmd_of_error hd] at h; cases h; rfl
  | wrCtrl d | wrPoly d | wrInit d | wrXorout d | wrRstart d | wrRend d | wrTarget d | wrImgLow d | wrImgHigh d | wrTblIdx d =>
    exact .inr ⟨d, by simp⟩
  | _ => cases h; exact .inl rfl

/-- A write of CTRL reaches CTRL, and of STATUS no bit but the validity bits 1 to 3 (R101). -/
theorem exec_wrCtrl_frame {d : Word} (h : exec (.wrCtrl d) s = .next t) :
    t = { s with ctrl := t.ctrl, status := t.status } ∧ t.status &&& 0xFFFFFFF1 = s.status &&& 0xFFFFFFF1 := by
  obtain ⟨hwrite, -, -⟩ := ctrlWriteInvalidatesOnWidthOrRefin
  rw [hwrite] at h
  cases h
  refine ⟨rfl, ?_⟩
  dsimp only
  split
  · rw [BitVec.and_assoc, BitVec.and_self]
  · rfl

/-- A write of POLY reaches POLY, and of STATUS no bit but TABLE_VALID, bit 1 (R102). -/
theorem exec_wrPoly_frame {d : Word} (h : exec (.wrPoly d) s = .next t) :
    t = { s with poly := t.poly, status := t.status } ∧ t.status &&& 0xFFFFFFF1 = s.status &&& 0xFFFFFFF1 := by
  obtain ⟨hwrite, -⟩ := polyWriteClearsTableValid
  rw [hwrite] at h
  cases h
  exact ⟨rfl, by rw [BitVec.and_assoc]; rfl⟩

end

/-- Settles O48: an instruction that changes the configuration is the write of one of its registers, and each such write
changes the one register that it names. -/
theorem commandsLeaveTheConfiguration : Obligations.CommandsLeaveTheConfiguration := by
  refine ⟨fun _ _ _ => exec_wrCtrl_frame, fun _ _ _ => exec_wrPoly_frame, fun i s t h => ?_⟩
  rcases configuration_of_exec_or_write h with hkept | ⟨d, rfl | rfl | hplain⟩
  · obtain ⟨hctrl, hpoly, hinit, hxorout, hrstart, hrend, htarget, hlow, hhigh, hidx, hhost⟩ := configuration_eq_iff.1 hkept
    exact ⟨.inl hctrl, .inl hpoly, .inl hinit, .inl hxorout, .inl hrstart, .inl hrend, .inl htarget, .inl hlow, .inl hhigh,
      .inl hidx, hhost⟩
  · obtain ⟨heq, -⟩ := exec_wrCtrl_frame h
    rw [heq]; simp
  · obtain ⟨heq, -⟩ := exec_wrPoly_frame h
    rw [heq]; simp
  · rcases hplain with rfl | rfl | rfl | rfl | rfl | rfl | rfl | rfl
    all_goals
      cases h
      simp

end Sys2Proof.Machine
end

section
/-! SUPPORT. The host's list under the steps: a step takes its head, and the idle step finds it empty (log entries 1 and 2). -/

namespace Sys2Proof.Machine

/-- No instruction touches the host's list. -/
theorem pending_of_exec {i : Instr} {s t : State} (h : exec i s = .next t) : t.pending = s.pending := by
  obtain ⟨-, -, hframe⟩ := commandsLeaveTheConfiguration
  obtain ⟨-, -, -, -, -, -, -, -, -, -, hpending, -⟩ := hframe i s t h
  exact hpending

/-- Settles O17: what the step does after it has taken the next action leaves the rest of the list alone. -/
theorem stepTakesTheNextHostAction : Obligations.StepTakesTheNextHostAction := by
  intro s t h
  rcases step_cases h with hidle | ⟨a, rest, u, hp, rfl, -, hact⟩
  · exact .inr hidle
  have hrest : t.pending = rest := by
    rcases hact with ⟨_, _, -, -, hi⟩ | ⟨_, _, -, -, rfl⟩ | ⟨-, rfl⟩ | ⟨_, _, -, rfl⟩ | ⟨_, _, -, -, rfl⟩
    · exact pending_of_exec hi
    all_goals rfl
  exact .inl ⟨a, by rw [hp, hrest]⟩

/-- Settles O15: with an empty list `fetch` takes nothing. -/
theorem idleStepChangesNothing : Obligations.IdleStepChangesNothing := by
  intro s hp
  rw [step, fetch_none.2 hp]

/-- A table word names the instruction that the decoder gives for the access the word stands for. -/
theorem decode_tableRequest {nbits w : Nat} {i : Instr} (h : decodeTableWord nbits w = some i) :
    decode (tableRequest nbits w) = .ok i := by
  unfold decodeTableWord at h
  split at h
  · cases h; assumption
  · cases h

/-- Settles O11: the placed access heads the list, it decodes to `i`, and BUSY does not forbid it; with it taken off, the list is
as before. -/
theorem placedTableWordRunsNext : Obligations.PlacedTableWordRunsNext := by
  intro s nbits w i hbusy hi
  exact stepRunsTheDecodedInstruction (s.withFetchWord nbits w) (tableRequest nbits w) s.pending i rfl
    (decode_tableRequest hi) (.inl hbusy)

end Sys2Proof.Machine
end
